-- ==== Sys2Proof/Word.lean ====
section
/-! DEFINITION. The two word types of rule R8: a byte of 8 bits and a word of 16 bits. -/

namespace Sys2Proof

/-- A byte: 8 bits, unsigned 0..255 (R8). -/
abbrev Byte := BitVec 8

/-- A word: 16 bits, the unit of the device register space (R8, R32). -/
abbrev Word := BitVec 16

end Sys2Proof
end

