-- ==== Sys2Proof/Config.lean ====
section
/-! DEFINITION. What an implementation fixes: the constants of rule R6, the open parameters of rule R7, and the
free values. -/

namespace Sys2Proof

/-- The 21 logical register names of R190, in the order of their `regid` numbers 0..20. -/
inductive RegName
  | tempC | tempU1 | tempU2
  | co2V0 | co2V1 | co2V2 | co2RawNpc
  | presU0 | presU1
  | interval | filter | offset | cust1 | cust2
  | fwVersion | serial | name | mode | status | detailedStatus | trigger
  deriving DecidableEq, Repr

/-- Every logical register name, in `regid` order (R190). -/
def RegName.all : List RegName :=
  [.tempC, .tempU1, .tempU2, .co2V0, .co2V1, .co2V2, .co2RawNpc, .presU0, .presU1, .interval, .filter,
    .offset, .cust1, .cust2, .fwVersion, .serial, .name, .mode, .status, .detailedStatus, .trigger]

/-- The decode kinds of R180 and R191. -/
inductive DecodeKind
  | rawU16 | signed16 | ieeeLikeFloat | byteBlob
  deriving DecidableEq, Repr

/-- The tuple the source gives for a register (R191), without the two access booleans that R190 fixes. -/
structure MapRow where
  address : Word
  wordCount : Word
  kind : DecodeKind
  deriving DecidableEq, Repr

/-- The open part of `REGMAP` (R192): every name but `TEMP_C`, whose entry R195 fixes. -/
structure RegMap where
  tempU1 : MapRow
  tempU2 : MapRow
  co2V0 : MapRow
  co2V1 : MapRow
  co2V2 : MapRow
  co2RawNpc : MapRow
  presU0 : MapRow
  presU1 : MapRow
  interval : MapRow
  filter : MapRow
  offset : MapRow
  cust1 : MapRow
  cust2 : MapRow
  fwVersion : MapRow
  serial : MapRow
  name : MapRow
  mode : MapRow
  status : MapRow
  detailedStatus : MapRow
  trigger : MapRow
  deriving DecidableEq, Repr

/-- One quantity of a fixed bulk layout: `width` bytes from `offset`, read as an integer and scaled by
`num / den`. -/
structure BulkField where
  offset : Nat
  width : Nat
  bigEndian : Bool
  signed : Bool
  num : Int
  den : Nat
  deriving DecidableEq, Repr

/-- `BULK_LAYOUT` (R7, R84): a layout written out, or one of the layouts left open, known by an index only. -/
inductive BulkLayout
  | linear (temperature co2 pressure : BulkField)
  | other (k : Nat)
  deriving DecidableEq, Repr

/-- `STATUS_STRING` (R7, R317): the six human-readable strings. -/
structure StatusStrings where
  success : String
  notAcknowledged : String
  checksumError : String
  registerWriteMismatch : String
  invalidIntervalInput : String
  invalidFilterInput : String
  deriving DecidableEq, Repr

/-- The open parameters of R7. -/
structure Config where
  regmap : RegMap
  modeContinuous : Word
  modeSingleShot : Word
  trigVal : Word
  bitDataReady : Fin 16
  bitTrigReady : Fin 16
  bulkCmd : List Byte
  bulkLayout : BulkLayout
  rxbufDepth : Nat
  strings : StatusStrings
  deriving DecidableEq, Repr

namespace Config

/-! ### The constants of R6 -/

/-- Reflected CRC-16 polynomial (R6). -/
def crcPoly : Word := 0xA001#16
/-- Initial accumulator value (R6). -/
def crcInit : Word := 0xFFFF#16
/-- Implicit leading byte of every checksum computation (R6); a constant of its own, not read from `periphAddr` (R29). -/
def crcPrefix : Byte := 0x5F#8
/-- Function code of a read request (R6). -/
def fcRead : Byte := 0x03#8
/-- Function code of a single-register write request (R6). -/
def fcWrite : Byte := 0x06#8
/-- Bus address of the checksum-validated path (R6, R29). -/
def periphAddr : Byte := 0x5F#8
/-- Bus address of the bulk path (R6). -/
def bulkAddr : Byte := 0x5E#8
/-- Length of the bulk reply (R6). -/
def bulkLen : Nat := 8
/-- Length of every request frame and of a write reply (R6, R83). -/
def reqLen : Nat := 7
/-- Exclusive lower bound of the measuring interval (R6). -/
def intervalLoExcl : Int := 99
/-- Exclusive upper bound of the measuring interval (R6). -/
def intervalHiExcl : Int := 36001
/-- Exclusive lower bound of the filter coefficient (R6). -/
def filterLoExcl : Int := 0
/-- Exclusive upper bound of the filter coefficient (R6). -/
def filterHiExcl : Int := 21
/-- Exponent bias of the float decoder (R6). -/
def floatBias : Int := 127
/-- Fractional bits that take part in a float value (R6). -/
def floatFracBits : Nat := 22
/-- The one register-map entry the source shows (R6, R195). -/
def tempCRow : MapRow := { address := 0x03EA#16, wordCount := 2#16, kind := .ieeeLikeFloat }

/-! ### Free values: no body, so nothing can be proved of them -/

/-- FREE VALUE. The bulk layouts that the source does not give (R84, R275): (temperature, CO₂, pressure). -/
opaque openBulkLayout : Nat → List Byte → Rat × Rat × Rat

/-- FREE VALUE. The byte that a measurement puts into a cell of a measurement register, by the number of the measurement
and the cell (R293, R296; log 35). -/
opaque measured : Nat → Nat → Byte

/-- FREE VALUE. A byte of the device's spaces that nothing in the model has written (U3), by its cell. -/
opaque unknownByte : Nat → Byte

/-! ### The named instance of 93_implementation_defined.md section 3 -/

/-- PRESUMED (log 3): `REGMAP_I`, the candidate map of 93_implementation_defined.md section 3.1, general knowledge. -/
def candidateMap : RegMap where
  tempU1 := ⟨0x03EC#16, 2#16, .ieeeLikeFloat⟩
  tempU2 := ⟨0x03F0#16, 2#16, .ieeeLikeFloat⟩
  co2V0 := ⟨0x0424#16, 2#16, .ieeeLikeFloat⟩
  co2V1 := ⟨0x0426#16, 2#16, .ieeeLikeFloat⟩
  co2V2 := ⟨0x0428#16, 2#16, .ieeeLikeFloat⟩
  co2RawNpc := ⟨0x042A#16, 2#16, .ieeeLikeFloat⟩
  presU0 := ⟨0x04B0#16, 2#16, .ieeeLikeFloat⟩
  presU1 := ⟨0x04B2#16, 2#16, .ieeeLikeFloat⟩
  interval := ⟨0x1450#16, 1#16, .rawU16⟩
  filter := ⟨0x1451#16, 1#16, .rawU16⟩
  offset := ⟨0x1452#16, 1#16, .signed16⟩
  cust1 := ⟨0x16A8#16, 1#16, .rawU16⟩
  cust2 := ⟨0x16A9#16, 1#16, .rawU16⟩
  fwVersion := ⟨0x0008#16, 1#16, .rawU16⟩
  serial := ⟨0x0000#16, 8#16, .byteBlob⟩
  name := ⟨0x0009#16, 8#16, .byteBlob⟩
  mode := ⟨0x01F8#16, 1#16, .rawU16⟩
  status := ⟨0x01F9#16, 1#16, .rawU16⟩
  detailedStatus := ⟨0x0259#16, 1#16, .rawU16⟩
  trigger := ⟨0x01FA#16, 1#16, .rawU16⟩

/-- PRESUMED: the candidate bulk layout of 93_implementation_defined.md section 3.2; no part of `candidate`, which
leaves the layout open (log 5). Whether the temperature is signed is "not recalled": unsigned here. -/
def candidateBulkLayout : BulkLayout :=
  .linear
    { offset := 2, width := 2, bigEndian := true, signed := false, num := 1, den := 100 }
    { offset := 0, width := 2, bigEndian := true, signed := false, num := 1, den := 1 }
    { offset := 6, width := 2, bigEndian := true, signed := false, num := 1, den := 10 }

/-- PRESUMED (log 3), the bulk layout open (log 5), the strings placeholders (log 4): the one named instance of the
configuration, which `State.reset` carries. No statement rests on it. -/
def candidate : Config where
  regmap := candidateMap
  modeContinuous := 0x0000#16
  modeSingleShot := 0x0001#16
  trigVal := 0x0001#16
  bitDataReady := 0
  bitTrigReady := 1
  bulkCmd := [0x00#8]
  bulkLayout := .other 0
  rxbufDepth := 20
  strings :=
    { success := "Success"
      notAcknowledged := "NotAcknowledged"
      checksumError := "ChecksumError"
      registerWriteMismatch := "RegisterWriteMismatch"
      invalidIntervalInput := "InvalidIntervalInput"
      invalidFilterInput := "InvalidFilterInput" }

end Config

end Sys2Proof
end

