-- ==== Sys2Proof/Machine/Bits.lean ====
section
/-! DEFINITION. Splitting and joining of 16-bit fields: the byte order of R51, decided once. -/

namespace Sys2Proof

/-- `hi8(w) = w[15:8]` (R8). -/
def hi8 (w : Word) : Byte := (w >>> 8).setWidth 8

/-- `lo8(w) = w[7:0]` (R8). -/
def lo8 (w : Word) : Byte := w.setWidth 8

/-- `(h << 8) | l` on 16 bits (R88). -/
def join16 (h l : Byte) : Word := (h.setWidth 16 <<< 8) ||| l.setWidth 16

/-- `enc16(w) = [hi8(w), lo8(w)]` (R87): addresses, counts and values are big-endian. -/
def enc16 (w : Word) : List Byte := [hi8 w, lo8 w]

/-- `dec_u16(d0, d1)` (R88). -/
def decU16 (d0 d1 : Byte) : Word := join16 d0 d1

/-- `dec_s16(d0, d1)` (R88): the same 16 bits read as two's complement. -/
def decS16 (d0 d1 : Byte) : Int := (decU16 d0 d1).toInt

/-- `enc_crc(c) = [lo8(c), hi8(c)]` (R89): the one little-endian field. -/
def encCrc (c : Word) : List Byte := [lo8 c, hi8 c]

/-- `dec_crc(x, y) = (y << 8) | x`, `x` the byte at the lower index (R89). -/
def decCrc (x y : Byte) : Word := join16 y x

end Sys2Proof
end

