-- ==== Sys2Proof/Syntax.lean ====
section
/-! DEFINITION. The operations of the core, one constructor per row of spec/opcode_table.json, and the two encoded
forms: the command record of R38 and the 7-byte wire frame. -/

namespace Sys2Proof

/-- The 37 rows of the opcode table (R101), each with the operands that its rule reads. -/
inductive Instr
  /-- `CRC16` (R120): `buf`, a payload of any length. -/
  | crc16 (buf : List Byte)
  /-- `FDEC` (R140): exactly four bytes in wire order. -/
  | fdec (b0 b1 b2 b3 : Byte)
  /-- `BLDRD` (R160): register address and word count. -/
  | bldrd (a b : Word)
  /-- `PRSRD` (R165): the received frame and `expected_len`. -/
  | prsrd (buf : List Byte) (n : Nat)
  /-- `BLDWR` (R172): register address and the two value bytes. -/
  | bldwr (a : Word) (vh vl : Byte)
  /-- `PRSWR` (R176): the sent and the received frame. -/
  | prswr (buf buf2 : List Byte)
  /-- `LOOKUP` (R199). -/
  | lookup (r : RegName)
  | rdregTempC
  | rdregTempU1
  | rdregTempU2
  | rdregCo2V0
  | rdregCo2V1
  | rdregCo2V2
  | rdregCo2RawNpc
  | rdregPresU0
  | rdregPresU1
  | rdregInterval
  | rdregFilter
  | rdregOffset
  | rdregCust1
  | rdregCust2
  | rdregFwVersion
  | rdregSerial
  | rdregName
  | rdregMode
  | rdregStatus
  | rdregDetailedStatus
  /-- The writes (R250): `v` is the two's-complement 32-bit operand of R38. -/
  | wrregInterval (v : BitVec 32)
  | wrregFilter (v : BitVec 32)
  | wrregOffset (v : BitVec 32)
  | wrregCust1 (v : BitVec 32)
  | wrregCust2 (v : BitVec 32)
  | wrregMode (v : BitVec 32)
  /-- `WRREG.TRIGGER` (R262): no operand, `v` is ignored. -/
  | wrregTrigger
  | getall
  /-- `RQ_R` (R80): a read request frame; `crc` is the 16-bit checksum field, low byte first on the wire. -/
  | rqR (addr count crc : Word)
  /-- `RQ_W` (R81): a single-register write request frame. -/
  | rqW (addr value crc : Word)
  deriving DecidableEq, Repr

/-- The command record of R38. -/
structure Cmd where
  opc : Byte
  regid : Byte := 0#8
  v : BitVec 32 := 0#32
  a : Word := 0#16
  b : Word := 0#16
  buf : List Byte := []
  buf2 : List Byte := []
  n : Nat := 0
  deriving DecidableEq, Repr

/-- What can be presented: a command record (the table's format CMD16) or a wire frame (its format WIRE7). -/
inductive Encoded
  | cmd (c : Cmd)
  | wire (frame : List Byte)
  deriving DecidableEq, Repr

/-- Why a presented item names no operation: the decoder's refusals, each by name. Those of command records are R104's;
the last two, of wire frames, are the model's choice (log 36). -/
inductive DecodeError
  /-- `opc` is not one of the ten values of R100. -/
  | unknownSelector
  /-- `LOOKUP`, `RDREG` or `WRREG` with `regid` not in 0..20. -/
  | unknownRegid
  /-- `RDREG` of the one register that is not readable. -/
  | notReadable
  /-- `WRREG` of a register that is not writable. -/
  | notWritable
  /-- `FDEC` with `len(buf) != 4`, `BLDWR` with `len(buf) != 2`. -/
  | operandLength
  /-- A wire frame that is not 7 bytes long, so no request of R80 or R81 (log 36). -/
  | frameLength
  /-- A wire frame whose first byte is neither `0x03` nor `0x06`, so no request of R80 or R81 (log 36). -/
  | unknownFunctionCode
  deriving DecidableEq, Repr

end Sys2Proof
end

