-- ==== Sys2Proof/Decode.lean ====
section
/-! DEFINITION. The decoder of presented items, the encoder, and the opcode table's numbering. -/

namespace Sys2Proof

/-! ### Register numbers (R190) -/

/-- `regid` of a name (R190). -/
def RegName.regid : RegName → Byte
  | .tempC => 0#8
  | .tempU1 => 1#8
  | .tempU2 => 2#8
  | .co2V0 => 3#8
  | .co2V1 => 4#8
  | .co2V2 => 5#8
  | .co2RawNpc => 6#8
  | .presU0 => 7#8
  | .presU1 => 8#8
  | .interval => 9#8
  | .filter => 10#8
  | .offset => 11#8
  | .cust1 => 12#8
  | .cust2 => 13#8
  | .fwVersion => 14#8
  | .serial => 15#8
  | .name => 16#8
  | .mode => 17#8
  | .status => 18#8
  | .detailedStatus => 19#8
  | .trigger => 20#8

/-- The name with a given `regid`; none above 20 (R104). -/
def RegName.ofRegid (x : Byte) : Option RegName := RegName.all.find? (fun r => r.regid == x)

/-! ### Decoding -/

/-- `RDREG.<name>`: every name but `TRIGGER`, which is not readable (R104, R190). -/
def decodeRead : RegName → Except DecodeError Instr
  | .tempC => .ok .rdregTempC
  | .tempU1 => .ok .rdregTempU1
  | .tempU2 => .ok .rdregTempU2
  | .co2V0 => .ok .rdregCo2V0
  | .co2V1 => .ok .rdregCo2V1
  | .co2V2 => .ok .rdregCo2V2
  | .co2RawNpc => .ok .rdregCo2RawNpc
  | .presU0 => .ok .rdregPresU0
  | .presU1 => .ok .rdregPresU1
  | .interval => .ok .rdregInterval
  | .filter => .ok .rdregFilter
  | .offset => .ok .rdregOffset
  | .cust1 => .ok .rdregCust1
  | .cust2 => .ok .rdregCust2
  | .fwVersion => .ok .rdregFwVersion
  | .serial => .ok .rdregSerial
  | .name => .ok .rdregName
  | .mode => .ok .rdregMode
  | .status => .ok .rdregStatus
  | .detailedStatus => .ok .rdregDetailedStatus
  | .trigger => .error .notReadable

/-- `WRREG.<name>`: the seven writable names (R104, R190). -/
def decodeWrite (v : BitVec 32) : RegName → Except DecodeError Instr
  | .interval => .ok (.wrregInterval v)
  | .filter => .ok (.wrregFilter v)
  | .offset => .ok (.wrregOffset v)
  | .cust1 => .ok (.wrregCust1 v)
  | .cust2 => .ok (.wrregCust2 v)
  | .mode => .ok (.wrregMode v)
  | .trigger => .ok .wrregTrigger
  | .tempC | .tempU1 | .tempU2 | .co2V0 | .co2V1 | .co2V2 | .co2RawNpc | .presU0 | .presU1 => .error .notWritable
  | .fwVersion | .serial | .name | .status | .detailedStatus => .error .notWritable

/-- A `regid` operand, or the refusal of R104. -/
def withRegid (x : Byte) (k : RegName → Except DecodeError Instr) : Except DecodeError Instr :=
  match RegName.ofRegid x with
  | some r => k r
  | none => .error .unknownRegid

/-- A command record (R38) by its `opc` (R100); the fields that the operation does not read are ignored. -/
def decodeCmd (c : Cmd) : Except DecodeError Instr :=
  if c.opc = 0x01#8 then .ok (.crc16 c.buf)
  else if c.opc = 0x02#8 then
    match c.buf with
    | [b0, b1, b2, b3] => .ok (.fdec b0 b1 b2 b3)
    | _ => .error .operandLength
  else if c.opc = 0x03#8 then .ok (.bldrd c.a c.b)
  else if c.opc = 0x04#8 then .ok (.prsrd c.buf c.n)
  else if c.opc = 0x05#8 then
    match c.buf with
    | [vh, vl] => .ok (.bldwr c.a vh vl)
    | _ => .error .operandLength
  else if c.opc = 0x06#8 then .ok (.prswr c.buf c.buf2)
  else if c.opc = 0x07#8 then withRegid c.regid (fun r => .ok (.lookup r))
  else if c.opc = 0x10#8 then withRegid c.regid decodeRead
  else if c.opc = 0x11#8 then withRegid c.regid (decodeWrite c.v)
  else if c.opc = 0x12#8 then .ok .getall
  else .error .unknownSelector

/-- A request frame on the wire (R80, R81): byte 0 is the function code, the checksum field comes low byte first. DESIGN
CHOICE (log 36): a presented frame of another length or another first byte is no request and is refused; the spec's
refused set (R104) lists command records only. -/
def decodeWire : List Byte → Except DecodeError Instr
  | [fc, ah, al, x, y, cl, ch] =>
    if fc = Config.fcRead then .ok (.rqR (join16 ah al) (join16 x y) (decCrc cl ch))
    else if fc = Config.fcWrite then .ok (.rqW (join16 ah al) (join16 x y) (decCrc cl ch))
    else .error .unknownFunctionCode
  | _ => .error .frameLength

/-- The decoder: total on everything that can be presented. -/
def decode : Encoded → Except DecodeError Instr
  | .cmd c => decodeCmd c
  | .wire f => decodeWire f

/-! ### Encoding -/

/-- The record of `RDREG.<name>` (selector `0x10rr`). -/
def readCmd (r : RegName) : Encoded := .cmd { opc := 0x10#8, regid := r.regid }

/-- The record of `WRREG.<name>` (selector `0x11rr`). -/
def writeCmd (r : RegName) (v : BitVec 32) : Encoded := .cmd { opc := 0x11#8, regid := r.regid, v := v }

/-- The presented form of each operation (R80, R81, R100). -/
def encode : Instr → Encoded
  | .crc16 buf => .cmd { opc := 0x01#8, buf := buf }
  | .fdec b0 b1 b2 b3 => .cmd { opc := 0x02#8, buf := [b0, b1, b2, b3] }
  | .bldrd a b => .cmd { opc := 0x03#8, a := a, b := b }
  | .prsrd buf n => .cmd { opc := 0x04#8, buf := buf, n := n }
  | .bldwr a vh vl => .cmd { opc := 0x05#8, a := a, buf := [vh, vl] }
  | .prswr buf buf2 => .cmd { opc := 0x06#8, buf := buf, buf2 := buf2 }
  | .lookup r => .cmd { opc := 0x07#8, regid := r.regid }
  | .rdregTempC => readCmd .tempC
  | .rdregTempU1 => readCmd .tempU1
  | .rdregTempU2 => readCmd .tempU2
  | .rdregCo2V0 => readCmd .co2V0
  | .rdregCo2V1 => readCmd .co2V1
  | .rdregCo2V2 => readCmd .co2V2
  | .rdregCo2RawNpc => readCmd .co2RawNpc
  | .rdregPresU0 => readCmd .presU0
  | .rdregPresU1 => readCmd .presU1
  | .rdregInterval => readCmd .interval
  | .rdregFilter => readCmd .filter
  | .rdregOffset => readCmd .offset
  | .rdregCust1 => readCmd .cust1
  | .rdregCust2 => readCmd .cust2
  | .rdregFwVersion => readCmd .fwVersion
  | .rdregSerial => readCmd .serial
  | .rdregName => readCmd .name
  | .rdregMode => readCmd .mode
  | .rdregStatus => readCmd .status
  | .rdregDetailedStatus => readCmd .detailedStatus
  | .wrregInterval v => writeCmd .interval v
  | .wrregFilter v => writeCmd .filter v
  | .wrregOffset v => writeCmd .offset v
  | .wrregCust1 v => writeCmd .cust1 v
  | .wrregCust2 v => writeCmd .cust2 v
  | .wrregMode v => writeCmd .mode v
  | .wrregTrigger => writeCmd .trigger 0#32
  | .getall => .cmd { opc := 0x12#8 }
  | .rqR addr count crc => .wire (Config.fcRead :: enc16 addr ++ enc16 count ++ encCrc crc)
  | .rqW addr value crc => .wire (Config.fcWrite :: enc16 addr ++ enc16 value ++ encCrc crc)

/-! ### The opcode table's numbering -/

/-- The 16-bit selector `(opc << 8) | regid` of a record (R100). -/
def Cmd.selector (c : Cmd) : Word := join16 c.opc c.regid

/-- The operand bytes of an all-zero operand for the two rows whose `buf` has a fixed length (the table's `buf[4]` of
`FDEC`, `value_bytes[2]` of `BLDWR`); every other operand is absent, empty or zero (log 18). -/
def zeroBuf (opc : Byte) : List Byte :=
  if opc = 0x02#8 then [0#8, 0#8, 0#8, 0#8]
  else if opc = 0x05#8 then [0#8, 0#8]
  else []

/-- The item whose bits are `w`, numbered as the opcode table numbers them: a row of at most 16 bits is a command
selector with operands of zeros, a longer one a 7-byte frame with byte 0 in bits 55:48 (R101). -/
def tableWord (nbits w : Nat) : Encoded :=
  if nbits ≤ 16 then
    let opc := BitVec.ofNat 8 (w / 256)
    .cmd { opc := opc, regid := BitVec.ofNat 8 w, buf := zeroBuf opc }
  else
    .wire ([48, 40, 32, 24, 16, 8, 0].map fun k => BitVec.ofNat 8 (w / 2 ^ k))

/-- The instruction the decoder reads from a table word. -/
def decodeTableWord (nbits w : Nat) : Option Instr :=
  match decode (tableWord nbits w) with
  | .ok i => some i
  | .error _ => none

end Sys2Proof
end

