-- ==== Sys2Proof/Machine/Checksum.lean ====
section
/-! DEFINITION. The Checksum Engine: the functional form of R121 and the byte-serial form of R124. -/

namespace Sys2Proof.Machine

/-- The bit step (R123): bit 0 is tested before the logical shift, the polynomial applied to the shifted value. -/
def bitStep (acc : Word) : Word :=
  if acc.getLsbD 0 then (acc >>> 1) ^^^ Config.crcPoly else acc >>> 1

/-- The byte step (R122): the byte is zero-extended and exclusive-ored into the accumulator. -/
def loadByte (acc : Word) (b : Byte) : Word := acc ^^^ b.setWidth 16

/-- `n` bit steps. -/
def bitSteps : Nat → Word → Word
  | 0, acc => acc
  | n + 1, acc => bitSteps n (bitStep acc)

/-- One byte: a load and 8 bit steps (R121). -/
def crcByte (acc : Word) (b : Byte) : Word := bitSteps 8 (loadByte acc b)

/-- `checksum16(p)` (R121): the implicit byte `0x5F` first, then the payload; no final exclusive-or, no byte swap. -/
def checksum16 (p : List Byte) : Word := (Config.crcPrefix :: p).foldl crcByte Config.crcInit

/-! ### The byte-serial engine (R124) -/

/-- `ACC`, `BYTE_IDX`, `BIT_CNT` (R21, R22). -/
structure Engine where
  acc : Word
  byteIdx : Nat
  bitCnt : Nat
  deriving DecidableEq, Repr

/-- `start` (R124). -/
def Engine.start : Engine := ⟨Config.crcInit, 0, 0⟩

/-- `load byte` and `shift` (R124) over the payload `p`; the engine rests when all of `[0x5F] ++ p` is consumed. -/
def Engine.step (p : List Byte) (e : Engine) : Engine :=
  if e.bitCnt = 0 then
    match (Config.crcPrefix :: p)[e.byteIdx]? with
    | some b => { e with acc := loadByte e.acc b, bitCnt := 8 }
    | none => e
  else
    { acc := bitStep e.acc
      byteIdx := if e.bitCnt = 1 then e.byteIdx + 1 else e.byteIdx
      bitCnt := e.bitCnt - 1 }

/-- `n` engine steps. -/
def Engine.run (p : List Byte) : Nat → Engine → Engine
  | 0, e => e
  | n + 1, e => Engine.run p n (Engine.step p e)

/-- `done` (R124): `BIT_CNT = 0` and every byte consumed. -/
def Engine.isDone (p : List Byte) (e : Engine) : Bool :=
  e.bitCnt == 0 && e.byteIdx == p.length + 1

end Sys2Proof.Machine
end

