-- ==== Sys2Proof/Machine/State.lean ====
section
/-! DEFINITION. The state of the core, the transport port and the device as plain data, the state after reset, and
the reasons a step can stop. -/

namespace Sys2Proof.Machine

/-! ### Results (R27, R39) -/

/-- The closed six-entry status enum (R27). -/
inductive Status
  | success | notAcknowledged | checksumError | registerWriteMismatch | invalidIntervalInput | invalidFilterInput
  deriving DecidableEq, Repr

/-- The five non-Success codes (R311 to R315). -/
inductive Failure
  | notAcknowledged | checksumError | registerWriteMismatch | invalidIntervalInput | invalidFilterInput
  deriving DecidableEq, Repr

/-- A register-map entry as `LOOKUP` returns it (R191). -/
structure Entry where
  address : Word
  wordCount : Word
  kind : DecodeKind
  readable : Bool
  writable : Bool
  deriving DecidableEq, Repr

/-- The values a successful operation carries (R39); a 64-bit float is held by its bit pattern (R144). -/
inductive Val
  | u16 (w : Word)
  | s16 (i : Int)
  | f64 (bits : BitVec 64)
  | bytes (s : List Byte)
  | frame (s : List Byte)
  | entry (e : Entry)
  | bulk (temperature co2 pressure : Rat)
  | unit
  deriving DecidableEq, Repr

/-- `Res` (R39): a value with Success, or a failure code and no value. -/
inductive Res
  | ok (v : Val)
  | err (f : Failure)
  deriving DecidableEq, Repr

/-! ### The core's working elements (R21 to R26) -/

/-- `PHASE` (R26). -/
inductive Phase
  | idle | validate | build | transact | check | decode | done
  deriving DecidableEq, Repr

/-- `TXBUF[0..6]` (R23): `[function_code, addr_hi, addr_lo, f3, f4, crc_lo, crc_hi]`. -/
structure Request where
  functionCode : Byte
  addrHi : Byte
  addrLo : Byte
  f3 : Byte
  f4 : Byte
  crcLo : Byte
  crcHi : Byte
  deriving DecidableEq, Repr

/-- The arguments of one `Transact` call (R52). -/
structure Call where
  addr : Byte
  wbytes : List Byte
  n : Nat
  deriving DecidableEq, Repr

/-- What the reply of the transaction in flight is checked for (R230): a read reply and its decode kind, the echo of
`TXBUF`, or the bulk reply. -/
inductive Expect
  | frame (kind : DecodeKind)
  | echo
  | bulk
  deriving DecidableEq, Repr

/-- The transaction in flight. -/
structure Pending where
  call : Call
  expect : Expect
  deriving DecidableEq, Repr

/-! ### The device (R33, R290 to R296, R301) -/

/-- Measurement Mode (R290). -/
inductive Mode
  | continuous | singleShot
  deriving DecidableEq, Repr

/-- The single-shot phase (R291). -/
inductive DevPhase
  | idle | pending | available
  deriving DecidableEq, Repr

/-- The device. `content` is its register space as byte cells in canonical form (log 29). The last two are the model's
own: `settled` is false while nothing may be assumed of `phase` (R294, log 12); `measurements` numbers the measurement
that the measurement registers show (R293, log 35). -/
structure Device where
  mode : Mode
  phase : DevPhase
  dataReady : Bool
  trigReady : Bool
  content : List Host.Cell
  settled : Bool
  measurements : Nat
  deriving DecidableEq, Repr

/-- The device's free choices at one of its moves (R301): what the spec marks "not given". `none` leaves a field as it
is; `content` lists the cells that change; `remeasure`: the measurement registers show other values from now on (R59).
Which choices take effect is `Device.drift`'s to say. -/
structure Drift where
  mode : Option Mode := none
  phase : Option DevPhase := none
  dataReady : Option Bool := none
  trigReady : Option Bool := none
  content : List Host.Cell := []
  remeasure : Bool := false
  deriving DecidableEq, Repr

/-- How the transport and the device answer one `Transact` call (R52; the model's own, log 9). -/
inductive Turn
  /-- Any answer: `none` is `Fail`. `delivered`: the request frame reached the device (R324, R352), as it has whenever
  the answer is its echo (R292). -/
  | scripted (answer : Option (List Byte)) (delivered : Bool) (d : Drift)
  /-- The device machine of R301 answers, from the device's mode, flags and registers. -/
  | faithful (d : Drift)
  /-- The reference device of R301 and 93_implementation_defined.md section 3.3, a simulation aid. -/
  | reference
  deriving DecidableEq, Repr

/-- Who moves next (the model's own, log 26). -/
inductive Move
  /-- The core. -/
  | core
  /-- The host presents an item at the command port (R40). -/
  | present (e : Encoded)
  /-- The device by itself (R293); `finish`: it finishes a pending measurement. -/
  | device (finish : Bool) (d : Drift)
  /-- Another user of the bus sends a frame to `0x5F` between two transactions of the core (R58). -/
  | otherUser (frame : List Byte) (d : Drift)
  /-- Reset of the core (R350 to R352); `delivered`: a request in flight had reached the device. -/
  | reset (delivered : Bool) (d : Drift)
  deriving DecidableEq, Repr

/-! ### The state -/

/-- The whole machine. Up to `cfg` the fields are the spec's (R21 to R26, R33, R37, R55; `cfg` is R7); the last four are the
model's own records and inputs (log 9, 20, 26). -/
structure State where
  phase : Phase
  acc : Word
  byteIdx : Nat
  bitCnt : Nat
  txbuf : Request
  rxbuf : List Byte
  rxlen : Nat
  res : Option Res
  cmdPort : List Encoded
  pending : Option Pending
  busHeld : Bool
  dev : Device
  cfg : Config
  calls : List Call
  path : List Phase
  turns : List Turn
  schedule : List Move
  deriving DecidableEq, Repr

/-- DESIGN CHOICE (log 7): the device at reset; the spec says unknown (R35). No statement rests on these values. -/
def Device.reset : Device where
  mode := .continuous
  phase := .idle
  dataReady := false
  trigReady := false
  content := []
  settled := false
  measurements := 0

/-- The state after reset (R35, R350): IDLE, no result. DESIGN CHOICE (log 6): the working elements, which the spec
leaves unspecified, hold zeros. PRESUMED (log 3): the configuration is the named instance. -/
def State.reset : State where
  phase := .idle
  acc := 0#16
  byteIdx := 0
  bitCnt := 0
  txbuf := ⟨0#8, 0#8, 0#8, 0#8, 0#8, 0#8, 0#8⟩
  rxbuf := []
  rxlen := 0
  res := none
  cmdPort := []
  pending := none
  busHeld := false
  dev := Device.reset
  cfg := Config.candidate
  calls := []
  path := []
  turns := []
  schedule := []

/-! ### Stops -/

/-- Why the machine stops with a fault: two shapes of State that no run reaches (`Safety.MachineInv`). -/
inductive Fault
  /-- Raised by `coreMove` in TRANSACT with no transaction in flight. Safe: it stops where nothing is specified. -/
  | noTransferPending
  /-- Raised by `coreMove` in VALIDATE, BUILD, CHECK or DECODE: phases inside one step (log 30). Safe, as above. -/
  | phaseInsideStep
  deriving DecidableEq, Repr

/-- Why an instruction is refused: the refused set of R104, each case by name. All are safe: R104 says that such a
command "has no step, produces no result and makes no transport call". -/
inductive Refusal
  /-- Raised by `exec`'s arms for an instruction without a meaning; no arm does so. -/
  | notModelled (mnemonic : String)
  /-- Raised by `coreMove`: the presented record is no operation of the core (R104), or the presented wire frame is no
  request (the model's choice, log 36). -/
  | undecodable (e : DecodeError)
  /-- Raised by `execBldrd`: `b = 0`, and by `execRqR`: a frame of zero words (R56, R104, R161). -/
  | wordCountZero
  /-- Raised by `execPrsrd`: not (`len(buf) = n`, `n >= 6`, `n` even) (R104, R165). -/
  | frameLengthOperand
  /-- Raised by the writes of OFFSET, CUST1 and CUST2: `v` outside the range of the register's kind (R90, R104). -/
  | valueOutOfRange
  /-- Raised by `execWrregMode`: `v` is neither 0 nor 1 (R104, R261). -/
  | modeOperand
  /-- Raised by the reads, and by `execRqR` for the frame of a read: the expected reply is longer than `RXBUF_DEPTH` (R24, R104). -/
  | replyTooLong
  /-- Raised by the reads, the writes and the frames they send under a configuration whose entry breaks R193, R194 or R196 (R353, log 25). -/
  | mapEntryInvalid
  deriving DecidableEq, Repr

end Sys2Proof.Machine
end

