-- ==== Sys2Proof/Machine/Codec.lean ====
section
/-! DEFINITION. The Frame Codec (R160 to R177): request builders and reply parsers, pure. -/

namespace Sys2Proof.Machine

/-- The seven bytes of a request, byte 0 first on the wire (R80, R81). -/
def Request.bytes (q : Request) : List Byte :=
  [q.functionCode, q.addrHi, q.addrLo, q.f3, q.f4, q.crcLo, q.crcHi]

/-- The five bytes the checksum of a request is computed over (R126). -/
def Request.body (q : Request) : List Byte := [q.functionCode, q.addrHi, q.addrLo, q.f3, q.f4]

/-- A request with a given checksum field, low byte first (R89). -/
def Request.withCrc (fc : Byte) (a w crc : Word) : Request :=
  ⟨fc, hi8 a, lo8 a, hi8 w, lo8 w, lo8 crc, hi8 crc⟩

/-- A request with the checksum over its first five bytes (R80, R81, R160, R172). -/
def buildRequest (fc : Byte) (a w : Word) : Request :=
  Request.withCrc fc a w (checksum16 [fc, hi8 a, lo8 a, hi8 w, lo8 w])

/-- `build_read_request` (R160). -/
def buildRead (a wordCount : Word) : Request := buildRequest Config.fcRead a wordCount

/-- `build_write_request` (R172), the two value bytes `vh`, `vl` given as the word they make. -/
def buildWrite (a value : Word) : Request := buildRequest Config.fcWrite a value

/-- The part of a reply of `n` bytes that its checksum covers: all but the last two (R165). -/
def replyBody (f : List Byte) (n : Nat) : List Byte := f.take (n - 2)

/-- The received checksum, little-endian, from the last two of `n` bytes (R165, R166). -/
def receivedCrc (f : List Byte) (n : Nat) : Word := decCrc (f.getD (n - 2) 0#8) (f.getD (n - 1) 0#8)

/-- The payload `f[2 .. n-3]` (R167). -/
def payload (f : List Byte) (n : Nat) : List Byte := (f.drop 2).take (n - 4)

/-- `parse_read_response` (R165): a comparison of two 16-bit values (R166), the header bytes otherwise ignored (R169). -/
def parseRead (f : List Byte) (n : Nat) : Except Failure (List Byte) :=
  if checksum16 (replyBody f n) = receivedCrc f n then .ok (payload f n) else .error .checksumError

/-- `parse_write_response` (R176): equality and nothing else (R177). -/
def parseWrite (sent received : List Byte) : Except Failure Unit :=
  if received = sent then .ok () else .error .registerWriteMismatch

end Sys2Proof.Machine
end

