-- ==== Sys2Proof/Machine/RegMap.lean ====
section
/-! DEFINITION. The Register Map: entries (R190, R191, R195), and the constraints of R193 to R198 and R7. -/

namespace Sys2Proof

/-- The readable column of R190. -/
def RegName.readable (r : RegName) : Bool := r != .trigger

/-- The writable column of R190. -/
def RegName.writable : RegName → Bool
  | .interval | .filter | .offset | .cust1 | .cust2 | .mode | .trigger => true
  | .tempC | .tempU1 | .tempU2 | .co2V0 | .co2V1 | .co2V2 | .co2RawNpc | .presU0 | .presU1 => false
  | .fwVersion | .serial | .name | .status | .detailedStatus => false

/-- The measurement registers: the temperature, CO₂ and pressure names of R190. -/
def RegName.isMeasurement : RegName → Bool
  | .tempC | .tempU1 | .tempU2 | .co2V0 | .co2V1 | .co2V2 | .co2RawNpc | .presU0 | .presU1 => true
  | .interval | .filter | .offset | .cust1 | .cust2 => false
  | .fwVersion | .serial | .name | .mode | .status | .detailedStatus | .trigger => false

/-- The source's tuple for a name; `TEMP_C`'s is fixed (R195). -/
def Config.row (c : Config) : RegName → MapRow
  | .tempC => Config.tempCRow
  | .tempU1 => c.regmap.tempU1
  | .tempU2 => c.regmap.tempU2
  | .co2V0 => c.regmap.co2V0
  | .co2V1 => c.regmap.co2V1
  | .co2V2 => c.regmap.co2V2
  | .co2RawNpc => c.regmap.co2RawNpc
  | .presU0 => c.regmap.presU0
  | .presU1 => c.regmap.presU1
  | .interval => c.regmap.interval
  | .filter => c.regmap.filter
  | .offset => c.regmap.offset
  | .cust1 => c.regmap.cust1
  | .cust2 => c.regmap.cust2
  | .fwVersion => c.regmap.fwVersion
  | .serial => c.regmap.serial
  | .name => c.regmap.name
  | .mode => c.regmap.mode
  | .status => c.regmap.status
  | .detailedStatus => c.regmap.detailedStatus
  | .trigger => c.regmap.trigger

/-- `REGMAP[name]` (R191, R199): the tuple with the access booleans of R190. -/
def Config.entry (c : Config) (r : RegName) : Machine.Entry where
  address := (c.row r).address
  wordCount := (c.row r).wordCount
  kind := (c.row r).kind
  readable := r.readable
  writable := r.writable

/-- The reply length of a read of `word_count` words (R93, R168), on unbounded naturals (R129). -/
def replyLen (wordCount : Word) : Nat := 2 * wordCount.toNat + 4

/-- R193 and R194: at least one word, and the kind agrees with the length. -/
def MapRow.lengthOk (e : MapRow) : Bool :=
  match e.kind with
  | .rawU16 | .signed16 => e.wordCount == 1#16
  | .ieeeLikeFloat => e.wordCount == 2#16
  | .byteBlob => e.wordCount != 0#16

/-- R196: a writable entry is one word of an integer kind. -/
def MapRow.writableOk (e : MapRow) : Bool :=
  e.wordCount == 1#16 && (e.kind == .rawU16 || e.kind == .signed16)

/-- What R193, R194 and R196 ask of the row of one name. DESIGN CHOICE (log 25): a read of a name whose row breaks
them is refused, and so is a write whose operand has passed its own check; a map or configuration that breaks only
R197, R198, R213 or R7, to which no rule applies (R353), runs as any other. -/
def Config.rowOk (c : Config) (r : RegName) : Bool :=
  (c.row r).lengthOk && (!r.writable || (c.row r).writableOk) && (r != .interval || (c.row r).kind == .rawU16)

/-- The constraints a configuration must satisfy before the rules apply (R353): R193 to R198 for the map, R7 for the
other parameters; `STATUS` is one word (R213). -/
abbrev Config.Conforming (c : Config) : Prop :=
  (∀ r ∈ RegName.all, c.rowOk r = true) ∧
  (c.row .interval).kind = .rawU16 ∧
  (c.row .serial).kind = .byteBlob ∧ (c.row .serial).wordCount = 8#16 ∧
  (c.row .name).kind = .byteBlob ∧ (c.row .name).wordCount = 8#16 ∧
  (c.row .status).wordCount = 1#16 ∧
  (∀ r ∈ RegName.all, ∀ q ∈ RegName.all, (c.row r).address = (c.row q).address → r = q) ∧
  c.modeContinuous ≠ c.modeSingleShot ∧
  c.bitDataReady ≠ c.bitTrigReady ∧
  20 ≤ c.rxbufDepth ∧
  [c.strings.success, c.strings.notAcknowledged, c.strings.checksumError, c.strings.registerWriteMismatch,
    c.strings.invalidIntervalInput, c.strings.invalidFilterInput].Nodup

end Sys2Proof
end

