-- ==== Sys2Proof/Machine/Flags.lean ====
section
/-! DEFINITION. The status code, the core's only flag-like state (R27, R28): its numbers and strings, the conditions
that set it, and the two flags and the mode read from the device's registers (R266, R267). -/

namespace Sys2Proof.Machine

/-- The 3-bit number of a status on the result port (R27). -/
def Status.code : Status → BitVec 3
  | .success => 0#3
  | .notAcknowledged => 1#3
  | .checksumError => 2#3
  | .registerWriteMismatch => 3#3
  | .invalidIntervalInput => 4#3
  | .invalidFilterInput => 5#3

/-- `STATUS_STRING` (R317). -/
def Status.string (c : Config) : Status → String
  | .success => c.strings.success
  | .notAcknowledged => c.strings.notAcknowledged
  | .checksumError => c.strings.checksumError
  | .registerWriteMismatch => c.strings.registerWriteMismatch
  | .invalidIntervalInput => c.strings.invalidIntervalInput
  | .invalidFilterInput => c.strings.invalidFilterInput

/-- A failure as a status. -/
def Failure.status : Failure → Status
  | .notAcknowledged => .notAcknowledged
  | .checksumError => .checksumError
  | .registerWriteMismatch => .registerWriteMismatch
  | .invalidIntervalInput => .invalidIntervalInput
  | .invalidFilterInput => .invalidFilterInput

/-- The status a result carries (R39). -/
def Res.status : Res → Status
  | .ok _ => .success
  | .err f => f.status

/-- `99 < v < 36001` on the full-width operand (R256, R314). -/
def intervalInRange (v : BitVec 32) : Bool :=
  Config.intervalLoExcl < v.toInt && v.toInt < Config.intervalHiExcl

/-- `0 < v < 21` on the full-width operand (R257, R315). -/
def filterInRange (v : BitVec 32) : Bool :=
  Config.filterLoExcl < v.toInt && v.toInt < Config.filterHiExcl

/-- `mode_of(w)` (R266): partial, defined on the two constants only. -/
def modeOf (c : Config) (w : Word) : Option Mode :=
  if w = c.modeContinuous then some .continuous
  else if w = c.modeSingleShot then some .singleShot
  else none

/-- The word that encodes a mode (R212). -/
def modeWord (c : Config) : Mode → Word
  | .continuous => c.modeContinuous
  | .singleShot => c.modeSingleShot

/-- `trigger_ready(w)` (R267). -/
def triggerReady (c : Config) (w : Word) : Bool := w.getLsbD c.bitTrigReady.val

/-- `data_ready(w)` (R267). -/
def dataReady (c : Config) (w : Word) : Bool := w.getLsbD c.bitDataReady.val

end Sys2Proof.Machine
end

