-- ==== Sys2Proof/Machine/Memory.lean ====
section
/-! DEFINITION. The device register space as byte cells (R32, R57, R60; log 29): the word at address `a` has its high
byte in cell `2a` and its low byte in cell `2a + 1`; the bulk space follows (`bulkCell`). Cells rise strictly; an
unlisted cell has no value, so no entry can equal what an unlisted cell reads as. -/

namespace Sys2Proof.Machine

/-- The cells of the device's register and bulk spaces. -/
abbrev Memory := List Host.Cell

namespace Memory

/-- The canonical form: addresses strictly rising. -/
def wf : Memory → Bool
  | [] => true
  | [_] => true
  | c :: d :: m => decide (c.1 < d.1) && wf (d :: m)

/-- One byte; `none` where nothing has been written (the content of the device is unknown, R34). -/
def read (m : Memory) (a : Nat) : Option Byte :=
  match m with
  | [] => none
  | c :: m => if c.1 = a then some c.2 else read m a

/-- Store one byte, keeping the canonical form. -/
def write (m : Memory) (a : Nat) (x : Byte) : Memory :=
  match m with
  | [] => [(a, x)]
  | c :: m =>
    if a < c.1 then (a, x) :: c :: m
    else if a = c.1 then (a, x) :: m
    else c :: write m a x

/-- Store a list of cells, in order. -/
def writeAll (m : Memory) (cs : List Host.Cell) : Memory :=
  cs.foldl (fun m c => m.write c.1 c.2) m

/-- The cell of the high byte of the word at `a`. -/
def cellHi (a : Word) : Nat := 2 * a.toNat

/-- The cell of the low byte of the word at `a`. -/
def cellLo (a : Word) : Nat := 2 * a.toNat + 1

/-- The cell of byte `k` of the bulk space at peripheral `0x5E` (R32), above the 131072 cells of the register space. -/
def bulkCell (k : Nat) : Nat := 131072 + k

/-- Store one word: a write moves exactly one (R57), high byte first (R51). -/
def writeWord (m : Memory) (a : Word) (w : Word) : Memory :=
  (m.write (cellHi a) (hi8 w)).write (cellLo a) (lo8 w)

/-- The word at `a`, a byte without a value taken from `dflt`. -/
def wordAt (m : Memory) (dflt : Nat → Byte) (a : Word) : Word :=
  join16 ((m.read (cellHi a)).getD (dflt (cellHi a))) ((m.read (cellLo a)).getD (dflt (cellLo a)))

end Memory

end Sys2Proof.Machine
end

