-- ==== Sys2Proof/Machine/Device.lean ====
section
/-! DEFINITION. The device behind the transport (R290 to R296, R301) and how one `Transact` call is answered (R52).
Whatever the spec marks "not given" is taken from the move's `Drift`. -/

namespace Sys2Proof.Machine

/-! ### Requests as the device reads them -/

/-- A request frame the device can read: a register read or a register write. -/
inductive WireRequest
  | read (a wordCount : Word)
  | write (a w : Word)
  deriving DecidableEq, Repr

/-- The request in a frame: 7 bytes, a correct checksum, a known function code (R80, R81); else none (log 14). -/
def readRequest : List Byte → Option WireRequest
  | [fc, ah, al, x, y, cl, ch] =>
    if checksum16 [fc, ah, al, x, y] = decCrc cl ch then
      if fc = Config.fcRead then some (.read (join16 ah al) (join16 x y))
      else if fc = Config.fcWrite then some (.write (join16 ah al) (join16 x y))
      else none
    else none
  | _ => none

/-- The name mapped at an address, if any. -/
def nameAt (cfg : Config) (a : Word) : Option RegName :=
  RegName.all.find? fun r => (cfg.row r).address == a

/-- A writable register is mapped at the address. -/
def writableAt (cfg : Config) (a : Word) : Bool :=
  match nameAt cfg a with
  | some r => r.writable
  | none => false

/-! ### Moves of the device -/

/-- Nothing constrains the phase: outside SingleShot it has no meaning (R291), and after a meaningless trigger nothing
may be assumed of it (R294). -/
def Device.phaseFree (d : Device) : Bool := d.mode == .continuous || !d.settled

/-- The phase after a drift: free where `phaseFree`; otherwise only `Available` may return to `Idle` (R293: "on a read,
on the next trigger or otherwise" is not given). -/
def Device.driftPhase (c : Drift) (d : Device) : DevPhase :=
  if d.phaseFree then c.phase.getD d.phase
  else if d.phase = .available ∧ c.phase = some .idle then .idle
  else d.phase

/-- Data ready after a drift: free where the phase is; otherwise it may only return to false, since nothing but the end
of a measurement makes it true (R293). -/
def Device.driftDataReady (c : Drift) (d : Device) : Bool :=
  if d.phaseFree then c.dataReady.getD d.dataReady else d.dataReady && c.dataReady.getD true

/-- The device changes by itself: flags (R295, R296), register content (R59) and, where free, the phase. The mode does
not (R292). -/
def Device.drift (c : Drift) (d : Device) : Device :=
  { d with
    phase := d.driftPhase c
    dataReady := d.driftDataReady c
    trigReady := c.trigReady.getD d.trigReady
    content := Memory.writeAll d.content c.content
    measurements := if c.remeasure then d.measurements + 1 else d.measurements }

/-- A trigger that starts a measurement (R294): SingleShot, trigger ready, none pending, the core's trigger word. -/
def Device.triggerMeaningful (cfg : Config) (w : Word) (d : Device) : Bool :=
  d.mode == .singleShot && d.settled && d.trigReady && d.phase != .pending && w == cfg.trigVal

/-- A register write that reaches the device: the word is stored; a `MODE` write sets the mode (R292), a `TRIGGER`
write starts a measurement or leaves the device unsettled (R293, R294). What a mode write makes of the phase and of
data ready is not given. -/
def Device.receiveWrite (cfg : Config) (a w : Word) (c : Drift) (d : Device) : Device :=
  let d' := { d with content := if writableAt cfg a then Memory.writeWord d.content a w else d.content }
  if a = (cfg.row .mode).address then
    { d' with
      mode := (modeOf cfg w).getD (c.mode.getD d.mode)
      phase := c.phase.getD d.phase
      dataReady := c.dataReady.getD d.dataReady
      settled := (modeOf cfg w).isSome }
  else if a = (cfg.row .trigger).address then
    if d.triggerMeaningful cfg w then { d' with phase := .pending } else { d' with settled := false }
  else d'

/-- A frame at peripheral `0x5F` reaches the device, which then drifts. -/
def Device.receive (cfg : Config) (f : List Byte) (c : Drift) (d : Device) : Device :=
  match readRequest f with
  | some (.write a w) => (d.receiveWrite cfg a w c).drift c
  | some (.read _ _) => d.drift c
  | none => d.drift c

/-- The device's own move (R293): it may finish a pending measurement; then data ready is true, and the measurement
registers show the new one. -/
def Device.ownMove (finish : Bool) (c : Drift) (d : Device) : Device :=
  if finish && d.mode == .singleShot && d.settled && d.phase == .pending then
    { d.drift c with phase := .available, dataReady := true, measurements := d.measurements + 1 }
  else d.drift c

/-! ### Answers computed from the device (R301) -/

/-- A read reply `[0x03, 2*word_count] ++ data ++ crc` (93_implementation_defined.md section 3.3; PRESUMED header and
consecutive words, log 27). DESIGN CHOICE (log 27): for more than 127 words the header byte is cut modulo 256, and the
word address `a + k` wraps at `0x10000`; the spec says neither. -/
def readReply (word : Word → Word) (a wordCount : Word) : List Byte :=
  let body := Config.fcRead :: BitVec.ofNat 8 (2 * wordCount.toNat) ::
    (List.range wordCount.toNat).flatMap fun k => enc16 (word (a + BitVec.ofNat 16 k))
  body ++ encCrc (checksum16 body)

/-- The reply to a request: a read of a mapped address with its word count, the echo of a write to a writable address,
else no answer. `word` gives the word shown at an address of the register that is read. -/
def deviceReply (cfg : Config) (word : RegName → Word → Word) (f : List Byte) : Option (List Byte) :=
  match readRequest f with
  | some (.read a wc) =>
    match nameAt cfg a with
    | some r => if (cfg.row r).wordCount = wc then some (readReply (word r) a wc) else none
    | none => none
  | some (.write a _) => if writableAt cfg a then some f else none
  | none => none

/-- Replace one bit of a word. -/
def setBit (w : Word) (k : Nat) (b : Bool) : Word :=
  (w &&& ~~~(1#16 <<< k)) ||| (if b then 1#16 <<< k else 0#16)

/-- The measurement registers show a fresh value: SingleShot, the measurement available, data ready (R293, R296). -/
def Device.fresh (d : Device) : Bool := d.mode == .singleShot && d.settled && d.phase == .available && d.dataReady

/-- The word a faithful device shows at an address of the register `r`: in a measurement register, while fresh, the last
measurement's (log 35); the mode at `MODE` (R212), the two flags in `STATUS` (R213), otherwise its content, free where
nothing is known of it (log 28). -/
def Device.shownWord (cfg : Config) (d : Device) (r : RegName) (a : Word) : Word :=
  let w := Memory.wordAt d.content Config.unknownByte a
  if r.isMeasurement && d.fresh then Memory.wordAt [] (Config.measured d.measurements) a
  else if a = (cfg.row .mode).address then modeWord cfg d.mode
  else if a = (cfg.row .status).address then
    setBit (setBit w cfg.bitDataReady.val d.dataReady) cfg.bitTrigReady.val d.trigReady
  else w

/-- The 8 bytes of a faithful device's bulk space (R32, R84), free where nothing is known of them (log 28). -/
def Device.bulkReply (d : Device) : List Byte :=
  (List.range Config.bulkLen).map fun k =>
    (Memory.read d.content (Memory.bulkCell k)).getD (Config.unknownByte (Memory.bulkCell k))

/-! ### One transaction -/

/-- The answer to one `Transact` call and the device after it (R52, R59, R324): a scripted answer may be anything,
and the frame may or may not have reached the device; it has if it is echoed (R292). At `0x5E` no device effect is given
but drift. -/
def answerTurn (cfg : Config) (dev : Device) (call : Call) : Turn → Option (List Byte) × Device
  | .scripted answer delivered c =>
    (answer,
      if (delivered || answer == some call.wbytes) && call.addr == Config.periphAddr then dev.receive cfg call.wbytes c
      else dev.drift c)
  | .faithful c =>
    if call.addr = Config.periphAddr then
      (deviceReply cfg (dev.shownWord cfg) call.wbytes, dev.receive cfg call.wbytes c)
    else (some dev.bulkReply, dev.drift c)
  | .reference =>
    if call.addr = Config.periphAddr then
      let answer := deviceReply cfg (fun _ => Memory.wordAt dev.content fun _ => 0#8) call.wbytes
      (answer, if answer.isSome then dev.receive cfg call.wbytes {} else dev)
    else (none, dev)

end Sys2Proof.Machine
end

