-- ==== Sys2Proof/Machine/FloatDecoder.lean ====
section
/-! DEFINITION. The Float Decoder (R140 to R151): a combinational map from four wire bytes to a binary64 pattern. -/

namespace Sys2Proof.Machine

/-- `sign = b2[7]` (R141). -/
def floatSign (b2 : Byte) : Bool := b2.getLsbD 7

/-- `exponent = (b2[6:0] << 1) | b3[7]` (R141); on 8 bits the shift drops `b2[7]`. -/
def floatExponent (b2 b3 : Byte) : BitVec 8 := (b2 <<< 1) ||| (b3 >>> 7)

/-- `rawm = (b3[6:0] << 16) | (b0 << 8) | b1` (R141); on 23 bits the shift drops `b3[7]`. -/
def floatRawMantissa (b0 b1 b3 : Byte) : BitVec 23 :=
  (b3.setWidth 23 <<< 16) ||| (b0.setWidth 23 <<< 8) ||| b1.setWidth 23

/-- `frac = rawm[22:1]` (R141, R143): bit 0 takes no part. -/
def floatFrac (b0 b1 b3 : Byte) : BitVec 22 := (floatRawMantissa b0 b1 b3 >>> 1).setWidth 22

/-- `bits64 = (sign << 63) | ((exponent + 896) << 52) | (frac << 30)` (R144). -/
def floatBits64 (b0 b1 b2 b3 : Byte) : BitVec 64 :=
  ((BitVec.ofBool (floatSign b2)).setWidth 64 <<< 63) |||
    (((floatExponent b2 b3).setWidth 64 + 896#64) <<< 52) |||
    ((floatFrac b0 b1 b3).setWidth 64 <<< 30)

/-- The exact value of R142. -/
def floatValue (b0 b1 b2 b3 : Byte) : Rat :=
  (if floatSign b2 then -1 else 1) *
    (1 + ((floatFrac b0 b1 b3).toNat : Rat) / 2 ^ Config.floatFracBits) *
    (2 : Rat) ^ (((floatExponent b2 b3).toNat : Int) - Config.floatBias)

/-- The value of a binary64 pattern whose exponent field is neither all zeros nor all ones (R144: 1 sign bit, 11
exponent bits with bias 1023, 52 fraction bits). -/
def binary64Value (w : BitVec 64) : Rat :=
  (if w.getLsbD 63 then -1 else 1) *
    (1 + ((w.setWidth 52).toNat : Rat) / 2 ^ 52) *
    (2 : Rat) ^ ((((w >>> 52).setWidth 11).toNat : Int) - 1023)

end Sys2Proof.Machine
end

