-- ==== Sys2Proof/Machine/Operands.lean ====
section
/-! DEFINITION. The field decoder and encoder (R90, R92, R180, R181) and the bulk layout (R84). -/

namespace Sys2Proof.Machine

/-- `s[i]` of a byte sequence (R8). The lengths the callers check make the default unused. -/
def byteAt (s : List Byte) (i : Nat) : Byte := s.getD i 0#8

/-- `decode_value(kind, data)` (R180). -/
def decodeValue (kind : DecodeKind) (data : List Byte) : Val :=
  match kind with
  | .rawU16 => .u16 (decU16 (byteAt data 0) (byteAt data 1))
  | .signed16 => .s16 (decS16 (byteAt data 0) (byteAt data 1))
  | .ieeeLikeFloat => .f64 (floatBits64 (byteAt data 0) (byteAt data 1) (byteAt data 2) (byteAt data 3))
  | .byteBlob => .bytes data

/-- `v mod 65536` (R90): the low 16 bits of the operand, taken only after its range check (R130). -/
def narrow16 (v : BitVec 32) : Word := v.setWidth 16

/-- `encode_value(kind, v)` (R181) before the split into two bytes; `none` where R90 refuses or no encoder exists. -/
def encodeValue (kind : DecodeKind) (v : BitVec 32) : Option Word :=
  match kind with
  | .rawU16 => if 0 ≤ v.toInt ∧ v.toInt ≤ 65535 then some (narrow16 v) else none
  | .signed16 => if -32768 ≤ v.toInt ∧ v.toInt ≤ 32767 then some (narrow16 v) else none
  | .ieeeLikeFloat | .byteBlob => none

/-- The unsigned integer of a byte sequence, first byte most significant. -/
def natOfBytes (s : List Byte) : Nat := s.foldl (fun n b => n * 256 + b.toNat) 0

/-- One quantity of a written-out bulk layout. -/
def BulkField.value (f : BulkField) (r : List Byte) : Rat :=
  let raw := (r.drop f.offset).take f.width
  let n := natOfBytes (if f.bigEndian then raw else raw.reverse)
  let i : Int := if f.signed && 2 ^ (8 * f.width) ≤ 2 * n then (n : Int) - 2 ^ (8 * f.width) else n
  (i : Rat) * f.num / f.den

/-- `BULK_LAYOUT` (R7, R275): total on the reply; a layout left open is a free value. -/
def bulkValue (l : BulkLayout) (r : List Byte) : Val :=
  match l with
  | .linear t c p => .bulk (BulkField.value t r) (BulkField.value c r) (BulkField.value p r)
  | .other k =>
    let v := Config.openBulkLayout k r
    .bulk v.1 v.2.1 v.2.2

end Sys2Proof.Machine
end

