-- ==== Sys2Proof/Machine/Ops.lean ====
section
/-! DEFINITION. The shared operations of the core: accepting a command, phases, the checksum run, ending an operation
(`succeed`, `raise`), the return to IDLE (`release`), the transaction, and reset. -/

namespace Sys2Proof.Machine

/-! ### Phases and results -/

/-- The place of a phase in the fixed order of R26. -/
def Phase.rank : Phase → Nat
  | .idle => 0
  | .validate => 1
  | .build => 2
  | .transact => 3
  | .check => 4
  | .decode => 5
  | .done => 6

/-- The core goes on to a phase (R26, R230). -/
def enter (p : Phase) (s : State) : State := { s with phase := p, path := s.path ++ [p] }

/-- A command is accepted (R40): the last result is no longer defined (R25), no call has been made. -/
def accept (s : State) : State :=
  { s with res := none, pending := none, busHeld := false, calls := [], path := [] }

/-- The operation ends with a result, presented in DONE (R40, R230). -/
def complete (r : Res) (s : State) : State := { enter .done s with res := some r }

/-- `return Ok(x)` (R9, R310). -/
def succeed (v : Val) (s : State) : State := complete (.ok v) s

/-- `raise <Status>` (R316, R324): this hardware's exception. The operation ends at once, the result is `Err(status)`
with no value, and nothing else is saved or changed. -/
def raise (f : Failure) (s : State) : State := complete (.err f) s

/-- The return (R40, R326): the host has taken the result, the core is back in IDLE, after `Err` exactly as after `Ok`.
`RES` stays defined until the next command is accepted (R25). -/
def release (s : State) : State := { s with phase := .idle }

/-! ### The checksum run and the transmit buffer -/

/-- The Checksum Engine runs over a payload and rests in its `done` state (R120, R124). -/
def runEngine (p : List Byte) (s : State) : State :=
  { s with acc := checksum16 p, byteIdx := p.length + 1, bitCnt := 0 }

/-- The build step of a framed client operation: the checksum is run over the first five bytes, the request is in
`TXBUF` (R23, R230). -/
def loadTx (q : Request) (s : State) : State := { runEngine q.body s with txbuf := q }

/-- A request is built and returned as a frame: the engine runs over its first five bytes, nothing is sent (R160, R172). -/
def buildOnly (q : Request) (s : State) : State := succeed (.frame q.bytes) (runEngine q.body (accept s))

/-! ### The transaction -/

/-- CHECK and DECODE (R230 steps 4 and 5) of a reply of the expected length, which is in `RXBUF`. -/
def checkReply (x : Expect) (r : List Byte) (s : State) : State :=
  match x with
  | .frame kind =>
    let s' := runEngine (replyBody r r.length) s
    match parseRead r r.length with
    | .ok data => succeed (decodeValue kind data) (enter .decode s')
    | .error f => raise f s'
  | .echo =>
    match parseWrite s.txbuf.bytes r with
    | .ok () => succeed .unit (enter .decode s)
    | .error f => raise f s
  | .bulk => succeed (bulkValue s.cfg.bulkLayout r) (enter .decode s)

/-- The reply is taken into `RXBUF` and its length into `RXLEN` (R24, R232). -/
def loadRx (r : List Byte) (n : Nat) (s : State) : State := { s with rxbuf := r, rxlen := n }

/-- The call is on the transport port and the bus is held (R41, R55). -/
def startCall (p : Pending) (s : State) : State :=
  { enter .transact s with calls := s.calls ++ [p.call], pending := some p, busHeld := true }

/-- The transport has answered: its turn is used up, the device is as the turn left it, the bus is released (R55). -/
def endCall (ts : List Turn) (d : Device) (s : State) : State :=
  { s with turns := ts, dev := d, pending := none, busHeld := false }

/-- The transport's answer arrives: `Fail` (R53), then the length (R54), then the content, in that order (R322). -/
def receive (p : Pending) (answer : Option (List Byte)) (s : State) : State :=
  match answer with
  | none => raise .notAcknowledged s
  | some r =>
    let s' := enter .check s
    if r.length = p.call.n then checkReply p.expect r (loadRx r p.call.n s')
    else raise .notAcknowledged s'

/-- In TRANSACT the core waits for the transport (R336): with no answer nothing changes; with one, the bus is released
(R55) and the operation goes on. -/
def await (p : Pending) (s : State) : State :=
  match s.turns with
  | [] => s
  | t :: ts =>
    let a := answerTurn s.cfg s.dev p.call t
    receive p a.1 (endCall ts a.2 s)

/-- `Transact(addr, wbytes, n)` (R52): one call on the transport port, the bus held from here to the answer (R55). -/
def transact (p : Pending) (s : State) : State := await p (startCall p s)

/-! ### Reset -/

/-- The effect on the device of a request that a reset abandons: it may or may not have reached the device (R352); the
reset itself does not reach it (R351). -/
def abandoned (delivered : Bool) (c : Drift) (s : State) : Device :=
  match s.pending with
  | none => s.dev
  | some p => (answerTurn s.cfg s.dev p.call (.scripted none delivered c)).2

/-- The reset input (R350 to R352): IDLE, no result, the command in flight abandoned without one. The working elements
take their reset values (log 6, 8); the configuration, the commands not yet accepted and the transport are not the
reset's to change. -/
def resetCore (delivered : Bool) (c : Drift) (s : State) : State :=
  { State.reset with
    cmdPort := s.cmdPort
    dev := abandoned delivered c s
    cfg := s.cfg
    turns := s.turns
    schedule := s.schedule }

/-! ### The generic sequences of the client operations -/

/-- The frame-building client operation from BUILD on: the request is built into `TXBUF`, then one transaction at the
framed peripheral address. -/
def framed (q : Request) (n : Nat) (x : Expect) (s : State) : State :=
  transact { call := { addr := Config.periphAddr, wbytes := q.bytes, n := n }, expect := x }
    (loadTx q (enter .build s))

/-- `RegRead(name)` (R232, R240). The checks before it are of the configuration alone (R24, R104,
R353); what they leave to run is the model's choice (log 25). -/
def regRead (r : RegName) (s : State) : Host.Outcome State Fault Refusal :=
  let e := s.cfg.entry r
  if s.cfg.rowOk r = false then .refused .mapEntryInvalid
  else if s.cfg.rxbufDepth < replyLen e.wordCount then .refused .replyTooLong
  else
    .next (framed (buildRead e.address e.wordCount) (replyLen e.wordCount) (.frame e.kind)
      (enter .validate (accept s)))

/-- `RegWrite(name, vb)` (R236), `w` being the word of the two value bytes; the state is the one in VALIDATE. The check
before it is of the configuration alone (R353, log 25). -/
def regWrite (r : RegName) (w : Word) (s : State) : Host.Outcome State Fault Refusal :=
  if s.cfg.rowOk r = false then .refused .mapEntryInvalid
  else .next (framed (buildWrite (s.cfg.entry r).address w) Config.reqLen .echo s)

/-- The generic write (R250): the operand is encoded by the entry's kind, out of range it is refused (R90). DESIGN CHOICE
(log 25): that comes before the check of the row, so an entry of a kind with no encoder, which breaks R196, is refused as
out of range for every operand. -/
def writeValue (r : RegName) (v : BitVec 32) (s : State) : Host.Outcome State Fault Refusal :=
  match encodeValue (s.cfg.entry r).kind v with
  | none => .refused .valueOutOfRange
  | some w => regWrite r w (enter .validate (accept s))

/-- A validated write (R256, R257): out of range it fails with `f` before any transport call. DESIGN CHOICE (log 25): that
comes before the check of the row, so it fails with `f` also where the row breaks R194 or R196. -/
def validatedWrite (r : RegName) (f : Failure) (inRange : Bool) (v : BitVec 32) (s : State) :
    Host.Outcome State Fault Refusal :=
  let s' := enter .validate (accept s)
  if inRange then regWrite r (narrow16 v) s' else .next (raise f s')

end Sys2Proof.Machine
end

