-- ==== Sys2Proof/Machine/Bulk.lean ====
section
/-! DEFINITION. The bulk read (R275, R276): a path of its own to `0x5E`, with no frame, no checksum and no map entry. -/

namespace Sys2Proof.Machine

/-- `GETALL` (R275): writes neither `ACC` nor `TXBUF`. DESIGN CHOICE (log 25): it does not look at `RXBUF_DEPTH`, which R7
puts at 20 or more; under one below 8 it runs all the same. -/
def execGetall (s : State) : Host.Outcome State Fault Refusal :=
  .next
    (transact
      { call := { addr := Config.bulkAddr, wbytes := s.cfg.bulkCmd, n := Config.bulkLen }, expect := .bulk }
      (enter .build (enter .validate (accept s))))

end Sys2Proof.Machine
end

