-- ==== Sys2Proof/WellFormed.lean ====
section
/-! DEFINITION. The operand checks of R104 that need no configuration. -/

namespace Sys2Proof

/-- The precondition of `PRSRD` (R165, D8): the frame has the stated length, which is even and at least 6. -/
def prsrdOperandsOk (buf : List Byte) (n : Nat) : Bool :=
  buf.length == n && 6 ≤ n && n % 2 == 0

/-- A value that some 16-bit kind can hold (R90): the union of the raw-u16 and signed-16 ranges. -/
def fitsSomeKind (v : BitVec 32) : Bool :=
  -32768 ≤ v.toInt && v.toInt ≤ 65535

/-- The instruction is in the admitted set as far as its operands alone decide (R104). The two validated writes are
always admitted: an out-of-range value of theirs has a status code. -/
def Instr.wellFormed : Instr → Bool
  | .bldrd _ b => b != 0#16
  | .prsrd buf n => prsrdOperandsOk buf n
  | .wrregOffset v => fitsSomeKind v
  | .wrregCust1 v => fitsSomeKind v
  | .wrregCust2 v => fitsSomeKind v
  | .wrregMode v => v == 0#32 || v == 1#32
  | .crc16 _ | .fdec _ _ _ _ | .bldwr _ _ _ | .prswr _ _ | .lookup _ => true
  | .rdregTempC | .rdregTempU1 | .rdregTempU2 | .rdregCo2V0 | .rdregCo2V1 | .rdregCo2V2 => true
  | .rdregCo2RawNpc | .rdregPresU0 | .rdregPresU1 | .rdregInterval | .rdregFilter | .rdregOffset => true
  | .rdregCust1 | .rdregCust2 | .rdregFwVersion | .rdregSerial | .rdregName | .rdregMode => true
  | .rdregStatus | .rdregDetailedStatus => true
  | .wrregInterval _ | .wrregFilter _ | .wrregTrigger | .getall => true
  | .rqR _ count _ => count != 0#16
  | .rqW _ _ _ => true

end Sys2Proof
end

