-- ==== Sys2Proof/Machine/Primitives.lean ====
section
/-! DEFINITION. The seven primitives (R120 to R199): pure, no transport call, result in DONE at once (log 21). -/

namespace Sys2Proof.Machine

/-- `CRC16` (R120, R121): the result is `ACC` at the end (R21). -/
def execCrc16 (buf : List Byte) (s : State) : Host.Outcome State Fault Refusal :=
  let s' := runEngine buf (accept s)
  .next (succeed (.u16 s'.acc) s')

/-- `FDEC` (R140, R142, R144). -/
def execFdec (b0 b1 b2 b3 : Byte) (s : State) : Host.Outcome State Fault Refusal :=
  .next (succeed (.f64 (floatBits64 b0 b1 b2 b3)) (accept s))

/-- `BLDRD` (R160): refused for a word count of zero (R104, R161). -/
def execBldrd (a b : Word) (s : State) : Host.Outcome State Fault Refusal :=
  if b = 0#16 then .refused .wordCountZero else .next (buildOnly (buildRead a b) s)

/-- `PRSRD` (R165): refused unless the frame has the stated length, even and at least 6 (R104). -/
def execPrsrd (buf : List Byte) (n : Nat) (s : State) : Host.Outcome State Fault Refusal :=
  if prsrdOperandsOk buf n = false then .refused .frameLengthOperand
  else
    let s' := runEngine (replyBody buf n) (accept s)
    match parseRead buf n with
    | .ok data => .next (succeed (.bytes data) s')
    | .error f => .next (raise f s')

/-- `BLDWR` (R172). -/
def execBldwr (a : Word) (vh vl : Byte) (s : State) : Host.Outcome State Fault Refusal :=
  .next (buildOnly (buildWrite a (join16 vh vl)) s)

/-- `PRSWR` (R176): the Checksum Engine is not used. -/
def execPrswr (buf buf2 : List Byte) (s : State) : Host.Outcome State Fault Refusal :=
  match parseWrite buf buf2 with
  | .ok () => .next (succeed .unit (accept s))
  | .error f => .next (raise f (accept s))

/-- `LOOKUP` (R199). -/
def execLookup (r : RegName) (s : State) : Host.Outcome State Fault Refusal :=
  .next (succeed (.entry (s.cfg.entry r)) (accept s))

end Sys2Proof.Machine
end

