-- ==== Sys2Proof/Machine/Reads.lean ====
section
/-! DEFINITION. The twenty reads (R240 to R249, R251 to R255, R263 to R268): each is `RegRead` of its name (R200), and
none consults the device's mode or flags (R240, R297). -/

namespace Sys2Proof.Machine

/-- `RDREG.TEMP_C` (R241): the entry R195 fixes. -/
def execRdregTempC (s : State) : Host.Outcome State Fault Refusal := regRead .tempC s

/-- `RDREG.TEMP_U1` (R242). -/
def execRdregTempU1 (s : State) : Host.Outcome State Fault Refusal := regRead .tempU1 s

/-- `RDREG.TEMP_U2` (R243). -/
def execRdregTempU2 (s : State) : Host.Outcome State Fault Refusal := regRead .tempU2 s

/-- `RDREG.CO2_V0` (R244). -/
def execRdregCo2V0 (s : State) : Host.Outcome State Fault Refusal := regRead .co2V0 s

/-- `RDREG.CO2_V1` (R245). -/
def execRdregCo2V1 (s : State) : Host.Outcome State Fault Refusal := regRead .co2V1 s

/-- `RDREG.CO2_V2` (R246). -/
def execRdregCo2V2 (s : State) : Host.Outcome State Fault Refusal := regRead .co2V2 s

/-- `RDREG.CO2_RAW_NPC` (R247): through `RegRead` like every other read. -/
def execRdregCo2RawNpc (s : State) : Host.Outcome State Fault Refusal := regRead .co2RawNpc s

/-- `RDREG.PRES_U0` (R248). -/
def execRdregPresU0 (s : State) : Host.Outcome State Fault Refusal := regRead .presU0 s

/-- `RDREG.PRES_U1` (R249). -/
def execRdregPresU1 (s : State) : Host.Outcome State Fault Refusal := regRead .presU1 s

/-- `RDREG.INTERVAL` (R251): the value read is not range-checked. -/
def execRdregInterval (s : State) : Host.Outcome State Fault Refusal := regRead .interval s

/-- `RDREG.FILTER` (R252). -/
def execRdregFilter (s : State) : Host.Outcome State Fault Refusal := regRead .filter s

/-- `RDREG.OFFSET` (R253). -/
def execRdregOffset (s : State) : Host.Outcome State Fault Refusal := regRead .offset s

/-- `RDREG.CUST1` (R254). -/
def execRdregCust1 (s : State) : Host.Outcome State Fault Refusal := regRead .cust1 s

/-- `RDREG.CUST2` (R255). -/
def execRdregCust2 (s : State) : Host.Outcome State Fault Refusal := regRead .cust2 s

/-- `RDREG.FW_VERSION` (R263). -/
def execRdregFwVersion (s : State) : Host.Outcome State Fault Refusal := regRead .fwVersion s

/-- `RDREG.SERIAL` (R264): 16 bytes, unchanged. -/
def execRdregSerial (s : State) : Host.Outcome State Fault Refusal := regRead .serial s

/-- `RDREG.NAME` (R265): 16 bytes, unchanged. -/
def execRdregName (s : State) : Host.Outcome State Fault Refusal := regRead .name s

/-- `RDREG.MODE` (R266): the raw word, in the entry's kind; for a kind other than raw-u16 that is a choice (log 37).
`modeOf` is the host's helper. -/
def execRdregMode (s : State) : Host.Outcome State Fault Refusal := regRead .mode s

/-- `RDREG.STATUS` (R267): the raw word, in the entry's kind; for a kind other than raw-u16 that is a choice (log 37).
`triggerReady` and `dataReady` are the host's helpers. -/
def execRdregStatus (s : State) : Host.Outcome State Fault Refusal := regRead .status s

/-- `RDREG.DETAILED_STATUS` (R268): no bit of the value is interpreted. DESIGN CHOICE (log 37): R268 says undecoded, R240
by the entry's kind, and the model follows R240; for a float entry the value of one dropped bit is lost (R143). -/
def execRdregDetailedStatus (s : State) : Host.Outcome State Fault Refusal := regRead .detailedStatus s

end Sys2Proof.Machine
end

