-- ==== Sys2Proof/Machine/Wire.lean ====
section
/-! DEFINITION. The two wire frames (R80, R81; DESIGN CHOICE, log 15). A frame presented to the core is the operation that
emits it: the read or write of the register that the map gives for its address, else the request builder, which sends
nothing. So no frame gives a path to the device beside the map (R200, R281), and its checksum is the engine's (R5): the
field presented is not read. -/

namespace Sys2Proof.Machine

/-- The register whose read emits a read frame (R232): readable, at its address, of its whole length (R57). -/
def readAt (cfg : Config) (addr count : Word) : Option RegName :=
  (nameAt cfg addr).filter fun r => r.readable && (cfg.row r).wordCount == count

/-- The words a write of the register can send: for `MODE` the two mode words (R261), for `TRIGGER` the trigger word
(R262), for the others any; `INTERVAL` and `FILTER` are validated after this (R256, R257). -/
def sendsWord (cfg : Config) (r : RegName) (w : Word) : Bool :=
  if r = .mode then (modeOf cfg w).isSome
  else if r = .trigger then w == cfg.trigVal
  else true

/-- The register whose write emits a write frame (R236): writable, at its address, with a word it sends. -/
def writeAt (cfg : Config) (addr w : Word) : Option RegName :=
  (nameAt cfg addr).filter fun r => r.writable && sendsWord cfg r w

/-- `RQ_R` (R80, R82): the read that emits the frame, else the builder. DESIGN CHOICE (log 15, 16). Zero words are refused
(R56, R161). -/
def execRqR (addr count _crc : Word) (s : State) : Host.Outcome State Fault Refusal :=
  if count = 0#16 then .refused .wordCountZero
  else
    match readAt s.cfg addr count with
    | some r => regRead r s
    | none => .next (buildOnly (buildRead addr count) s)

/-- `RQ_W` (R81, R83): the write that emits the frame, else the builder. DESIGN CHOICE (log 15): the word of a frame to
`INTERVAL` or `FILTER` is validated as the operand of the write is (R205, R206), so that no unvalidated write exists. -/
def execRqW (addr value _crc : Word) (s : State) : Host.Outcome State Fault Refusal :=
  let v : BitVec 32 := value.setWidth 32
  match writeAt s.cfg addr value with
  | some .interval => validatedWrite .interval .invalidIntervalInput (intervalInRange v) v s
  | some .filter => validatedWrite .filter .invalidFilterInput (filterInRange v) v s
  | some r => regWrite r value (enter .validate (accept s))
  | none => .next (buildOnly (buildWrite addr value) s)

end Sys2Proof.Machine
end

