-- ==== Sys2Proof/Machine/Writes.lean ====
section
/-! DEFINITION. The seven writes (R250, R256 to R262): validation, the encoded operand, then `RegWrite`. -/

namespace Sys2Proof.Machine

/-- `WRREG.INTERVAL` (R256): validated at full width before any transport call. -/
def execWrregInterval (v : BitVec 32) (s : State) : Host.Outcome State Fault Refusal :=
  validatedWrite .interval .invalidIntervalInput (intervalInRange v) v s

/-- `WRREG.FILTER` (R257): validated at full width before any transport call. -/
def execWrregFilter (v : BitVec 32) (s : State) : Host.Outcome State Fault Refusal :=
  validatedWrite .filter .invalidFilterInput (filterInRange v) v s

/-- `WRREG.OFFSET` (R258). -/
def execWrregOffset (v : BitVec 32) (s : State) : Host.Outcome State Fault Refusal := writeValue .offset v s

/-- `WRREG.CUST1` (R259). -/
def execWrregCust1 (v : BitVec 32) (s : State) : Host.Outcome State Fault Refusal := writeValue .cust1 v s

/-- `WRREG.CUST2` (R260). -/
def execWrregCust2 (v : BitVec 32) (s : State) : Host.Outcome State Fault Refusal := writeValue .cust2 v s

/-- `WRREG.MODE` (R261): 0 selects Continuous, 1 SingleShot, any other operand is refused. -/
def execWrregMode (v : BitVec 32) (s : State) : Host.Outcome State Fault Refusal :=
  let s' := enter .validate (accept s)
  if v = 0#32 then regWrite .mode s.cfg.modeContinuous s'
  else if v = 1#32 then regWrite .mode s.cfg.modeSingleShot s'
  else .refused .modeOperand

/-- `WRREG.TRIGGER` (R262): neither the mode nor the trigger-ready flag is checked. -/
def execWrregTrigger (s : State) : Host.Outcome State Fault Refusal :=
  regWrite .trigger s.cfg.trigVal (enter .validate (accept s))

end Sys2Proof.Machine
end

