-- ==== Sys2Proof/Machine/Dispatch.lean ====
section
/-! DEFINITION. One arm per instruction. -/

namespace Sys2Proof.Machine

def exec (i : Instr) (s : State) : Host.Outcome State Fault Refusal :=
  match i with
  | .crc16 buf => Sys2Proof.Machine.execCrc16 buf s
  | .fdec b0 b1 b2 b3 => Sys2Proof.Machine.execFdec b0 b1 b2 b3 s
  | .bldrd a b => Sys2Proof.Machine.execBldrd a b s
  | .prsrd buf n => Sys2Proof.Machine.execPrsrd buf n s
  | .bldwr a vh vl => Sys2Proof.Machine.execBldwr a vh vl s
  | .prswr buf buf2 => Sys2Proof.Machine.execPrswr buf buf2 s
  | .lookup r => Sys2Proof.Machine.execLookup r s
  | .rdregTempC => Sys2Proof.Machine.execRdregTempC s
  | .rdregTempU1 => Sys2Proof.Machine.execRdregTempU1 s
  | .rdregTempU2 => Sys2Proof.Machine.execRdregTempU2 s
  | .rdregCo2V0 => Sys2Proof.Machine.execRdregCo2V0 s
  | .rdregCo2V1 => Sys2Proof.Machine.execRdregCo2V1 s
  | .rdregCo2V2 => Sys2Proof.Machine.execRdregCo2V2 s
  | .rdregCo2RawNpc => Sys2Proof.Machine.execRdregCo2RawNpc s
  | .rdregPresU0 => Sys2Proof.Machine.execRdregPresU0 s
  | .rdregPresU1 => Sys2Proof.Machine.execRdregPresU1 s
  | .rdregInterval => Sys2Proof.Machine.execRdregInterval s
  | .rdregFilter => Sys2Proof.Machine.execRdregFilter s
  | .rdregOffset => Sys2Proof.Machine.execRdregOffset s
  | .rdregCust1 => Sys2Proof.Machine.execRdregCust1 s
  | .rdregCust2 => Sys2Proof.Machine.execRdregCust2 s
  | .rdregFwVersion => Sys2Proof.Machine.execRdregFwVersion s
  | .rdregSerial => Sys2Proof.Machine.execRdregSerial s
  | .rdregName => Sys2Proof.Machine.execRdregName s
  | .rdregMode => Sys2Proof.Machine.execRdregMode s
  | .rdregStatus => Sys2Proof.Machine.execRdregStatus s
  | .rdregDetailedStatus => Sys2Proof.Machine.execRdregDetailedStatus s
  | .wrregInterval v => Sys2Proof.Machine.execWrregInterval v s
  | .wrregFilter v => Sys2Proof.Machine.execWrregFilter v s
  | .wrregOffset v => Sys2Proof.Machine.execWrregOffset v s
  | .wrregCust1 v => Sys2Proof.Machine.execWrregCust1 v s
  | .wrregCust2 v => Sys2Proof.Machine.execWrregCust2 v s
  | .wrregMode v => Sys2Proof.Machine.execWrregMode v s
  | .wrregTrigger => Sys2Proof.Machine.execWrregTrigger s
  | .getall => Sys2Proof.Machine.execGetall s
  | .rqR addr count crc => Sys2Proof.Machine.execRqR addr count crc s
  | .rqW addr value crc => Sys2Proof.Machine.execRqW addr value crc s

end Sys2Proof.Machine
end

