-- ==== Sys2Proof/Machine/Cycle.lean ====
section
/-! DEFINITION. One step: whose move it is (R11, R62; log 26), and what the core does in each phase (R26, R40). -/

namespace Sys2Proof.Machine

/-- The core's move. IDLE: the oldest command presented is accepted and run, and with none the core stays idle.
TRANSACT: it waits for the transport (R336). DONE: the host takes the result and the core returns to IDLE (R40, log 19).
The other phases are inside one step (log 30). -/
def coreMove (s : State) : Host.Outcome State Fault Refusal :=
  match s.phase with
  | .idle =>
    match s.cmdPort with
    | [] => .next s
    | e :: rest =>
      match decode e with
      | .error x => .refused (.undecodable x)
      | .ok i => exec i { s with cmdPort := rest }
  | .transact =>
    match s.pending with
    | some p => .next (await p s)
    | none => .fault .noTransferPending
  | .done => .next (release s)
  | .validate => .fault .phaseInsideStep
  | .build => .fault .phaseInsideStep
  | .check => .fault .phaseInsideStep
  | .decode => .fault .phaseInsideStep

/-- A frame of another user of the bus reaches the device at `0x5F` (R58). While the core holds the bus there is no such
frame (R55): the move has no effect. -/
def otherUserMove (f : List Byte) (c : Drift) (s : State) : Device :=
  if s.busHeld then s.dev else s.dev.receive s.cfg f c

/-- One move of one agent; an empty schedule leaves the move to the core. -/
def cycle (s : State) : Host.Outcome State Fault Refusal :=
  match s.schedule with
  | [] => coreMove s
  | .core :: ms => coreMove { s with schedule := ms }
  | .present e :: ms => .next { s with schedule := ms, cmdPort := s.cmdPort ++ [e] }
  | .device finish c :: ms => .next { s with schedule := ms, dev := s.dev.ownMove finish c }
  | .otherUser f c :: ms => .next { s with schedule := ms, dev := otherUserMove f c s }
  | .reset delivered c :: ms => .next (resetCore delivered c { s with schedule := ms })

/-- The item presented so that the very next step runs it: the core idle with nothing in flight, the item first at the
command port, the core to move (log 17). -/
def presentNow (e : Encoded) (s : State) : State :=
  { s with
    phase := .idle
    pending := none
    busHeld := false
    cmdPort := e :: s.cmdPort
    schedule := .core :: s.schedule }

end Sys2Proof.Machine
end

