-- ==== Sys2Proof/Machine/Step.lean ====
section
/-! DEFINITION. The step of the machine, and the placing of a table word where the step fetches. -/

namespace Sys2Proof.Machine

/-- One step. -/
def step (s : State) : Host.Outcome State Fault Refusal := cycle s

/-- The instruction with bits `w`, numbered as the opcode table numbers them, placed where the next step takes its
command (log 17, 18). -/
def State.withFetchWord (s : State) (nbits w : Nat) : State := presentNow (tableWord nbits w) s

end Sys2Proof.Machine
end

