-- ==== Sys2Proof/Safety.lean ====
section
/-! DEFINITION. The invariant of the machine, and the frames and run predicates that the statements are written in. -/

namespace Sys2Proof.Safety

open Sys2Proof.Machine

/-- The phases a command has passed through, in the order of R26 and never backward. -/
abbrev Forward (path : List Phase) : Prop := (path.map Phase.rank).Pairwise (· < ·)

/-- What holds of the machine between steps. -/
structure MachineInv (s : State) : Prop where
  /-- Only IDLE, TRANSACT and DONE are seen between steps (log 30). -/
  visible : s.phase = .idle ∨ s.phase = .transact ∨ s.phase = .done
  /-- A transaction is in flight exactly in TRANSACT (R336). -/
  inFlight : s.pending.isSome = true ↔ s.phase = .transact
  /-- The bus is held exactly in TRANSACT (R55). -/
  bus : s.busHeld = true ↔ s.phase = .transact
  /-- A result stands in DONE (R40) and none while a command is running (R25). -/
  result : (s.phase = .done → s.res.isSome = true) ∧ (s.phase = .transact → s.res = none)
  /-- The transaction in flight is the one call of the command (R231), with the frame in `TXBUF` on the framed path. -/
  oneCall : ∀ p, s.pending = some p →
    s.calls = [p.call] ∧ p.call.n ≤ s.cfg.rxbufDepth ∧
      (p.call.addr = Config.periphAddr → p.call.wbytes = s.txbuf.bytes)
  /-- No command makes two calls (R231), and none leaves the two peripheral addresses (R60). -/
  calls : s.calls.length ≤ 1 ∧ ∀ c ∈ s.calls, c.addr = Config.periphAddr ∨ c.addr = Config.bulkAddr
  /-- The phases never move backward (R26), and the last one entered is the current one. -/
  path : Forward s.path ∧ (s.phase ≠ .idle → s.path.getLast? = some s.phase)
  /-- The Checksum Engine rests (R124). -/
  engine : s.bitCnt = 0
  /-- `RXLEN` is the length of `RXBUF`, which fits its depth (R24). -/
  rx : s.rxlen = s.rxbuf.length ∧ s.rxlen ≤ s.cfg.rxbufDepth
  /-- `RXBUF_DEPTH` is at least 20 (R7). -/
  depth : 20 ≤ s.cfg.rxbufDepth
  /-- The device register space is in canonical form (log 29). -/
  memory : Memory.wf s.dev.content = true

/-! ### Frames -/

/-- What no instruction touches: the configuration (R30), the commands still waiting (R40), the moves to come. -/
structure KeepsPort (s t : State) : Prop where
  cfg : t.cfg = s.cfg
  cmdPort : t.cmdPort = s.cmdPort
  schedule : t.schedule = s.schedule

/-- No transport call was made: the device and every byte of its registers, and the transport's answers, are as before. -/
structure KeepsDevice (s t : State) : Prop where
  calls : t.calls = []
  dev : t.dev = s.dev
  bytes : ∀ a, Memory.read t.dev.content a = Memory.read s.dev.content a
  turns : t.turns = s.turns

/-- `TXBUF`, `RXBUF` and `RXLEN` are as before. -/
structure KeepsBuffers (s t : State) : Prop where
  txbuf : t.txbuf = s.txbuf
  rxbuf : t.rxbuf = s.rxbuf
  rxlen : t.rxlen = s.rxlen

/-- `ACC`, `BYTE_IDX` and `BIT_CNT` are as before. -/
structure KeepsEngine (s t : State) : Prop where
  acc : t.acc = s.acc
  byteIdx : t.byteIdx = s.byteIdx
  bitCnt : t.bitCnt = s.bitCnt

/-- The Checksum Engine has run over a payload and rests. -/
structure EngineRan (p : List Byte) (t : State) : Prop where
  acc : t.acc = checksum16 p
  byteIdx : t.byteIdx = p.length + 1
  bitCnt : t.bitCnt = 0

/-- The command has run to DONE and presents its result; nothing is in flight and the bus is free. -/
structure Presents (r : Res) (t : State) : Prop where
  phase : t.phase = .done
  res : t.res = some r
  pending : t.pending = none
  bus : t.busHeld = false

/-- A primitive that uses the Checksum Engine over `p`. -/
structure ChecksumPrimitive (p : List Byte) (r : Res) (s t : State) : Prop where
  presents : Presents r t
  engine : EngineRan p t
  port : KeepsPort s t
  device : KeepsDevice s t
  buffers : KeepsBuffers s t

/-- A primitive that does not use the Checksum Engine. -/
structure PlainPrimitive (r : Res) (s t : State) : Prop where
  presents : Presents r t
  engine : KeepsEngine s t
  port : KeepsPort s t
  device : KeepsDevice s t
  buffers : KeepsBuffers s t

/-! ### Client operations -/

/-- The seven bytes of a request with a right checksum (R80, R81). -/
def requestBytes (fc : Byte) (a w : Word) : List Byte :=
  let body := [fc, hi8 a, lo8 a, hi8 w, lo8 w]
  body ++ [lo8 (checksum16 body), hi8 (checksum16 body)]

/-- The result of a read by the transport's answer (R232): `Fail`, the length, the checksum, the field decoder, in that
order (R322). -/
def readResult (n : Nat) (kind : DecodeKind) : Option (List Byte) → Res
  | none => .err .notAcknowledged
  | some f =>
    if f.length ≠ n then .err .notAcknowledged
    else if checksum16 (f.take (n - 2)) ≠ join16 (f.getD (n - 1) 0#8) (f.getD (n - 2) 0#8) then .err .checksumError
    else .ok (decodeValue kind ((f.take (n - 2)).drop 2))

/-- The result of a write of the frame `sent` by the transport's answer (R236). -/
def writeResult (sent : List Byte) : Option (List Byte) → Res
  | none => .err .notAcknowledged
  | some f =>
    if f.length ≠ 7 then .err .notAcknowledged
    else if f = sent then .ok .unit
    else .err .registerWriteMismatch

/-- The result of the bulk read by the transport's answer (R275). -/
def bulkResult (l : BulkLayout) : Option (List Byte) → Res
  | none => .err .notAcknowledged
  | some f => if f.length ≠ 8 then .err .notAcknowledged else .ok (bulkValue l f)

/-- `RXBUF` and `RXLEN` after a transaction: the reply, if it had the expected length (R232), else as before. -/
def BuffersReply (n : Nat) (answer : Option (List Byte)) (s t : State) : Prop :=
  match answer with
  | some f => if f.length = n then t.rxbuf = f ∧ t.rxlen = n else t.rxbuf = s.rxbuf ∧ t.rxlen = s.rxlen
  | none => t.rxbuf = s.rxbuf ∧ t.rxlen = s.rxlen

/-- The transport's answer to the call `c` made in the state `s`, whatever the first turn is: a scripted answer may be
anything (R52). -/
def answerOf (s : State) (c : Call) : Option (List Byte) :=
  match s.turns with
  | [] => none
  | t :: _ => (answerTurn s.cfg s.dev c t).1

/-- The device after that call. -/
def deviceAfter (s : State) (c : Call) : Device :=
  match s.turns with
  | [] => s.dev
  | t :: _ => (answerTurn s.cfg s.dev c t).2

/-- One command that made the one call `c` and had the first turn's answer: result, the call, the buffers, the device,
the rest of the turns, and what it leaves alone. -/
structure OneTransaction (c : Call) (r : Res) (s t : State) : Prop where
  presents : Presents r t
  calls : t.calls = [c]
  turns : t.turns = s.turns.tail
  dev : t.dev = deviceAfter s c
  port : KeepsPort s t
  rx : BuffersReply c.n (answerOf s c) s t

/-- The map of R190 to R195: number, name, the source's tuple, readable, writable. -/
def regTable (cfg : Config) : List (Byte × RegName × MapRow × Bool × Bool) :=
  [(0#8, .tempC, ⟨0x03EA#16, 2#16, .ieeeLikeFloat⟩, true, false),
    (1#8, .tempU1, cfg.regmap.tempU1, true, false),
    (2#8, .tempU2, cfg.regmap.tempU2, true, false),
    (3#8, .co2V0, cfg.regmap.co2V0, true, false),
    (4#8, .co2V1, cfg.regmap.co2V1, true, false),
    (5#8, .co2V2, cfg.regmap.co2V2, true, false),
    (6#8, .co2RawNpc, cfg.regmap.co2RawNpc, true, false),
    (7#8, .presU0, cfg.regmap.presU0, true, false),
    (8#8, .presU1, cfg.regmap.presU1, true, false),
    (9#8, .interval, cfg.regmap.interval, true, true),
    (10#8, .filter, cfg.regmap.filter, true, true),
    (11#8, .offset, cfg.regmap.offset, true, true),
    (12#8, .cust1, cfg.regmap.cust1, true, true),
    (13#8, .cust2, cfg.regmap.cust2, true, true),
    (14#8, .fwVersion, cfg.regmap.fwVersion, true, false),
    (15#8, .serial, cfg.regmap.serial, true, false),
    (16#8, .name, cfg.regmap.name, true, false),
    (17#8, .mode, cfg.regmap.mode, true, true),
    (18#8, .status, cfg.regmap.status, true, false),
    (19#8, .detailedStatus, cfg.regmap.detailedStatus, true, false),
    (20#8, .trigger, cfg.regmap.trigger, false, true)]

/-- The twenty reads and the register each reads (R240 to R268), in the order of the numbers 0 to 19 of R190. -/
def readOps : List (Instr × RegName) :=
  [(.rdregTempC, .tempC), (.rdregTempU1, .tempU1), (.rdregTempU2, .tempU2), (.rdregCo2V0, .co2V0),
    (.rdregCo2V1, .co2V1), (.rdregCo2V2, .co2V2), (.rdregCo2RawNpc, .co2RawNpc), (.rdregPresU0, .presU0),
    (.rdregPresU1, .presU1), (.rdregInterval, .interval), (.rdregFilter, .filter), (.rdregOffset, .offset),
    (.rdregCust1, .cust1), (.rdregCust2, .cust2), (.rdregFwVersion, .fwVersion), (.rdregSerial, .serial),
    (.rdregName, .name), (.rdregMode, .mode), (.rdregStatus, .status), (.rdregDetailedStatus, .detailedStatus)]

/-- The call of a read of a register (R232): the request to `0x5F` and the length of the reply (R93). -/
def readCall (cfg : Config) (r : RegName) : Call :=
  ⟨0x5F#8, requestBytes 0x03#8 (cfg.row r).address (cfg.row r).wordCount, 2 * (cfg.row r).wordCount.toNat + 4⟩

/-- The payload that the Checksum Engine ran over last in a read (R21, R126): the reply's body, or the request's first
five bytes where no reply of the expected length came. -/
def lastChecked (c : Call) : Option (List Byte) → List Byte
  | some f => if f.length = c.n then f.take (c.n - 2) else c.wbytes.take 5
  | none => c.wbytes.take 5

/-- The call of a write of the word `w` to a register (R236): the echo is 7 bytes. -/
def writeCall (cfg : Config) (r : RegName) (w : Word) : Call :=
  ⟨0x5F#8, requestBytes 0x06#8 (cfg.row r).address w, 7⟩

/-- The write sequence of R236 ran for the word `w` and the register `r`: the frame was sent once to `0x5F` and stands
in `TXBUF`, the Checksum Engine was used for it alone, and the result is the echo comparison's. -/
structure WriteRan (r : RegName) (w : Word) (s t : State) : Prop where
  ran : OneTransaction (writeCall s.cfg r w)
    (writeResult (writeCall s.cfg r w).wbytes (answerOf s (writeCall s.cfg r w))) s t
  tx : t.txbuf.bytes = (writeCall s.cfg r w).wbytes
  engine : EngineRan [0x06#8, hi8 (s.cfg.row r).address, lo8 (s.cfg.row r).address, hi8 w, lo8 w] t

/-- An operation that fails its input validation (R230 step 1, R314, R315): no call, no device state changed. -/
structure RejectedEarly (f : Failure) (s t : State) : Prop where
  presents : Presents (.err f) t
  engine : KeepsEngine s t
  port : KeepsPort s t
  device : KeepsDevice s t
  buffers : KeepsBuffers s t

/-- The primitives: the seven operations that make no transport call (R101, R318). -/
def isPrimitive : Instr → Bool
  | .crc16 _ | .fdec _ _ _ _ | .bldrd _ _ | .prsrd _ _ | .bldwr _ _ _ | .prswr _ _ | .lookup _ => true
  | _ => false

/-- The client operations of R101: the twenty reads, the seven writes, `GETALL`. -/
def isClient : Instr → Bool
  | .getall | .wrregInterval _ | .wrregFilter _ | .wrregOffset _ | .wrregCust1 _ | .wrregCust2 _ | .wrregMode _
  | .wrregTrigger => true
  | i => readOps.any fun p => p.1 == i

/-- The matrix of R318: the failure codes each operation can return; for a wire frame, the codes of the reads or of the
writes it can be (log 15). -/
def mayFail : Instr → Failure → Bool
  | .crc16 _, _ | .fdec _ _ _ _, _ | .bldrd _ _, _ | .bldwr _ _ _, _ | .lookup _, _ => false
  | .prsrd _ _, f => f == .checksumError
  | .prswr _ _, f => f == .registerWriteMismatch
  | .getall, f => f == .notAcknowledged
  | .wrregInterval _, f => f == .notAcknowledged || f == .registerWriteMismatch || f == .invalidIntervalInput
  | .wrregFilter _, f => f == .notAcknowledged || f == .registerWriteMismatch || f == .invalidFilterInput
  | .wrregOffset _, f | .wrregCust1 _, f | .wrregCust2 _, f | .wrregMode _, f =>
    f == .notAcknowledged || f == .registerWriteMismatch
  | .wrregTrigger, f => f == .notAcknowledged || f == .registerWriteMismatch
  | .rqW _ _ _, f => f != .checksumError
  | _, f => f == .notAcknowledged || f == .checksumError

/-- The bytes that a measurement puts into the `n` words of a measurement register at `a` (log 35). -/
def measuredBytes (k : Nat) (a : Word) (n : Nat) : List Byte :=
  (List.range n).flatMap fun j =>
    [Config.measured k (Memory.cellHi (a + BitVec.ofNat 16 j)), Config.measured k (Memory.cellLo (a + BitVec.ofNat 16 j))]

/-- The keys of the cells a drift changes. -/
def driftCells (c : Drift) : List Nat := c.content.map (·.1)

end Sys2Proof.Safety
end

