-- ==== Sys2Proof/Certificates/Slice0/Obligations.lean ====
section
/-! DEFINITION. The statements for the provers. Each docstring names the rule of spec/ it formalises; where a clause
rests on a choice of the model, the log entry is named. -/

open Sys2Proof Sys2Proof.Machine Sys2Proof.Safety

/-! ### Encoding -/

/-- R100, R190, R80, R81: the word of every row of the opcode table, written out, decodes to the operation it stands for
(absent operands zero, log 18). -/
def Obligations.TableWordsDecodeAsWritten : Prop :=
  [0x0100, 0x0200, 0x0300, 0x0400, 0x0500, 0x0600, 0x0700, 0x0714, 0x1200].map (decodeTableWord 16) =
    [some (.crc16 []), some (.fdec 0#8 0#8 0#8 0#8), some (.bldrd 0#16 0#16), some (.prsrd [] 0),
      some (.bldwr 0#16 0#8 0#8), some (.prswr [] []), some (.lookup .tempC), some (.lookup .trigger), some .getall] ∧
  [0x1000, 0x1001, 0x1002, 0x1003, 0x1004, 0x1005, 0x1006, 0x1007, 0x1008, 0x1009].map (decodeTableWord 16) =
    [some .rdregTempC, some .rdregTempU1, some .rdregTempU2, some .rdregCo2V0, some .rdregCo2V1, some .rdregCo2V2,
      some .rdregCo2RawNpc, some .rdregPresU0, some .rdregPresU1, some .rdregInterval] ∧
  [0x100A, 0x100B, 0x100C, 0x100D, 0x100E, 0x100F, 0x1010, 0x1011, 0x1012, 0x1013].map (decodeTableWord 16) =
    [some .rdregFilter, some .rdregOffset, some .rdregCust1, some .rdregCust2, some .rdregFwVersion, some .rdregSerial,
      some .rdregName, some .rdregMode, some .rdregStatus, some .rdregDetailedStatus] ∧
  [0x1109, 0x110A, 0x110B, 0x110C, 0x110D, 0x1111, 0x1114].map (decodeTableWord 16) =
    [some (.wrregInterval 0#32), some (.wrregFilter 0#32), some (.wrregOffset 0#32), some (.wrregCust1 0#32),
      some (.wrregCust2 0#32), some (.wrregMode 0#32), some .wrregTrigger] ∧
  [0x0303EA0002E8C5, 0x061450006480BE].map (decodeTableWord 56) =
    [some (.rqR 0x03EA#16 2#16 0xC5E8#16), some (.rqW 0x1450#16 100#16 0xBE80#16)]

/-- Decoding what the encoder presents gives the instruction back, for every well-formed instruction. -/
def Obligations.DecodeInvertsEncode : Prop :=
  ∀ i : Instr, i.wellFormed = true → decode (encode i) = .ok i

/-- R100: a decoded record has the `opc` its operation is encoded with, and its `regid` where the operation reads one;
a decoded frame is 7 bytes that the encoder gives back whole. -/
def Obligations.DecodedItemHasTheTableSelector : Prop :=
  (∀ c i, decode (.cmd c) = .ok i →
    ∃ c', encode i = .cmd c' ∧ c'.opc = c.opc ∧
      (c.opc = 0x07#8 ∨ c.opc = 0x10#8 ∨ c.opc = 0x11#8 → c'.selector = c.selector)) ∧
  (∀ f i, decode (.wire f) = .ok i → encode i = .wire f ∧ f.length = 7)

/-- R104: the command records that name no operation, exactly. -/
def Obligations.RefusedRecordsAreThoseOfTheRule : Prop :=
  ∀ c : Cmd, (∃ e, decode (.cmd c) = .error e) ↔
    (c.opc ∉ [0x01#8, 0x02#8, 0x03#8, 0x04#8, 0x05#8, 0x06#8, 0x07#8, 0x10#8, 0x11#8, 0x12#8]) ∨
    ((c.opc = 0x07#8 ∨ c.opc = 0x10#8 ∨ c.opc = 0x11#8) ∧ 20 < c.regid.toNat) ∨
    (c.opc = 0x10#8 ∧ c.regid = 20#8) ∨
    (c.opc = 0x11#8 ∧ c.regid ∉ [9#8, 10#8, 11#8, 12#8, 13#8, 17#8, 20#8]) ∨
    (c.opc = 0x02#8 ∧ c.buf.length ≠ 4) ∨
    (c.opc = 0x05#8 ∧ c.buf.length ≠ 2)

/-! ### Reset, step, handshake -/

/-- R35, R350: IDLE, no result, after reset. -/
def Obligations.ResetIsIdleWithNoResult : Prop :=
  State.reset.phase = .idle ∧ State.reset.res = none

/-- The state after reset meets the invariant of the machine. Three of its clauses there rest on the model's choices: the
resting engine and `RXLEN` on the working elements of log 6, the depth of `RXBUF` on the candidate of log 3, the
canonical form of the device's cells on log 7. -/
def Obligations.ResetMeetsTheInvariant : Prop := MachineInv State.reset

/-- Every step keeps the invariant of the machine, whoever moves. After a reset move the clauses on the engine and on
`RXLEN` rest on the working elements of log 6; which phases are seen between steps is log 30, the canonical form log 29. -/
def Obligations.StepKeepsTheInvariant : Prop :=
  ∀ s t, MachineInv s → step s = .next t → MachineInv t

/-- From a state that meets the invariant no step faults (the two faults are the model's own, log 30). -/
def Obligations.StepNeverFaults : Prop :=
  ∀ s f, MachineInv s → step s ≠ .fault f

/-- A step of the idle core takes the oldest command presented, and is `exec` of what it decodes to; what decodes to
nothing is refused. Of a command record the refusal is R104's; of a wire frame that is no request it is the model's
choice (log 36). The move `core` at the head of the schedule only gives the core its turn (log 26). -/
def Obligations.StepRunsTheDecodedCommand : Prop :=
  ∀ s e rest, s.phase = .idle → s.cmdPort = e :: rest →
    (∀ i, decode e = .ok i →
      (s.schedule = [] → step s = exec i { s with cmdPort := rest }) ∧
      (∀ ms, s.schedule = .core :: ms → step s = exec i { s with cmdPort := rest, schedule := ms })) ∧
    (∀ x, decode e = .error x →
      (s.schedule = [] → step s = .refused (.undecodable x)) ∧
      (∀ ms, s.schedule = .core :: ms → step s = .refused (.undecodable x)))

/-- R25, R40, R326: in DONE the host takes the result and the core is in IDLE, after `Err` exactly as after `Ok`; nothing
else changes, and `RES` stays defined. The step out of DONE as the taking is the model's reading (log 19). -/
def Obligations.TakenResultReturnsToIdle : Prop :=
  ∀ s, s.phase = .done → s.schedule = [] → step s = .next { s with phase := .idle }

/-- R40: a command presented, in whatever phase, waits at the end of the command port and nothing else changes. -/
def Obligations.PresentedCommandWaits : Prop :=
  ∀ s e ms, s.schedule = .present e :: ms →
    step s = .next { s with schedule := ms, cmdPort := s.cmdPort ++ [e] }

/-- R336: while the transport does not answer, the core stays in TRANSACT and nothing changes. -/
def Obligations.UnansweredTransactionWaits : Prop :=
  ∀ s p, s.phase = .transact → s.pending = some p → s.turns = [] → s.schedule = [] → step s = .next s

/-- R350, R351, R352: the reset input. IDLE, no result; the command in flight is gone; the configuration and the waiting
commands are kept (log 8); the device is not reached by it: with nothing in flight it is as it was, and a request in
flight to `0x5F` has either reached it or not. -/
def Obligations.ResetInputAbandonsTheCommand : Prop :=
  ∀ s x c ms, s.schedule = .reset x c :: ms →
    ∃ t, step s = .next t ∧ t.phase = .idle ∧ t.res = none ∧ t.pending = none ∧ t.busHeld = false ∧
      t.cfg = s.cfg ∧ t.cmdPort = s.cmdPort ∧ t.turns = s.turns ∧ t.schedule = ms ∧
      (s.pending = none → t.dev = s.dev) ∧
      (∀ p, s.pending = some p → t.dev =
        if x = true ∧ p.call.addr = 0x5F#8 then s.dev.receive s.cfg p.call.wbytes c else s.dev.drift c)

/-- R30: no step of any agent writes the configuration. -/
def Obligations.ConfigurationIsConstant : Prop :=
  ∀ s t, step s = .next t → t.cfg = s.cfg

/-- R27: the six status numbers, of which 6 and 7 are none, and the one-to-one strings. -/
def Obligations.StatusNumbersAndStringsAreOneToOne : Prop :=
  Status.success.code = 0#3 ∧ Status.notAcknowledged.code = 1#3 ∧ Status.checksumError.code = 2#3 ∧
    Status.registerWriteMismatch.code = 3#3 ∧ Status.invalidIntervalInput.code = 4#3 ∧
    Status.invalidFilterInput.code = 5#3 ∧
    (∀ a : Status, a.code ≠ 6#3 ∧ a.code ≠ 7#3) ∧
    (∀ cfg : Config, cfg.Conforming → ∀ a b : Status, a.string cfg = b.string cfg → a = b)

/-! ### Checksum Engine -/

/-- R128: the known vector, and the accumulator after each byte. -/
def Obligations.KnownVectorOfTheSource : Prop :=
  checksum16 [0x03#8, 0x03#8, 0xEA#8, 0x00#8, 0x02#8] = 0xC5E8#16 ∧
    [lo8 0xC5E8#16, hi8 0xC5E8#16] = [0xE8#8, 0xC5#8] ∧
    [checksum16 [], checksum16 [0x03#8], checksum16 [0x03#8, 0x03#8], checksum16 [0x03#8, 0x03#8, 0xEA#8],
        checksum16 [0x03#8, 0x03#8, 0xEA#8, 0x00#8]] =
      [0x78FF#16, 0x4178#16, 0x2301#16, 0x4F63#16, 0x290F#16]

/-- R120: `CRC16` (`opc` 0x01) always succeeds with the checksum of its payload, writes the engine's elements and nothing
else, and makes no transport call. -/
def Obligations.Crc16ReturnsTheChecksum : Prop :=
  (∀ c : Cmd, c.opc = 0x01#8 → decode (.cmd c) = .ok (.crc16 c.buf)) ∧
  ∀ p s, ∃ t, exec (.crc16 p) s = .next t ∧ ChecksumPrimitive p (.ok (.u16 (checksum16 p))) s t

/-- R124: the byte-serial engine computes the functional form, in `9 * (len(p) + 1)` steps (R370) and not before. -/
def Obligations.ByteSerialEngineComputesTheChecksum : Prop :=
  ∀ p : List Byte,
    Engine.run p (9 * (p.length + 1)) Engine.start = ⟨checksum16 p, p.length + 1, 0⟩ ∧
    ∀ k, k < 9 * (p.length + 1) → (Engine.run p k Engine.start).isDone p = false

/-- R127: a payload followed by its own checksum, low byte first, has the checksum 0. -/
def Obligations.ChecksumResidueIsZero : Prop :=
  ∀ p : List Byte, checksum16 (p ++ [lo8 (checksum16 p), hi8 (checksum16 p)]) = 0#16

/-- R170: any change of a single byte of a valid frame, in header, data or either checksum byte, is detected. -/
def Obligations.SingleByteChangeIsDetected : Prop :=
  ∀ (f : List Byte) (k : Nat) (x : Byte) (data : List Byte),
    4 ≤ f.length → k < f.length → f[k]? ≠ some x →
    parseRead f f.length = .ok data → parseRead (f.set k x) f.length = .error .checksumError

/-! ### Float Decoder -/

/-- R140, R141, R142: `FDEC` (`opc` 0x02) of four bytes always succeeds with the binary64 number whose value is the
formula's, sign, exponent and fraction being cut from the bytes as R141 says, and changes nothing else; a `buf` of
another length is refused. -/
def Obligations.FdecReturnsTheValue : Prop :=
  (∀ (c : Cmd) (b0 b1 b2 b3 : Byte), c.opc = 0x02#8 → c.buf = [b0, b1, b2, b3] →
    decode (.cmd c) = .ok (.fdec b0 b1 b2 b3)) ∧
  (∀ c : Cmd, c.opc = 0x02#8 → c.buf.length ≠ 4 → decode (.cmd c) = .error .operandLength) ∧
  ∀ b0 b1 b2 b3 s,
    let exponent : Nat := 2 * (b2.toNat % 128) + b3.toNat / 128
    let rawm : Nat := (b3.toNat % 128) * 65536 + b0.toNat * 256 + b1.toNat
    let frac : Nat := rawm / 2
    ∃ x t, exec (.fdec b0 b1 b2 b3) s = .next t ∧ PlainPrimitive (.ok (.f64 x)) s t ∧
      binary64Value x =
        (if 128 ≤ b2.toNat then -1 else 1) * (1 + (frac : Rat) / 2 ^ 22) * (2 : Rat) ^ ((exponent : Int) - 127)

/-- R144: the pattern of the result is that of a normal binary64 number: the sign in bit 63, the exponent field
`exponent + 896` (896..1151), the fraction `frac` in its high 22 bits; and it denotes the value of R142 exactly. -/
def Obligations.FloatPatternDenotesTheFormula : Prop :=
  ∀ b0 b1 b2 b3 : Byte,
    (floatBits64 b0 b1 b2 b3).getLsbD 63 = floatSign b2 ∧
    ((floatBits64 b0 b1 b2 b3 >>> 52).setWidth 11).toNat = (floatExponent b2 b3).toNat + 896 ∧
    ((floatBits64 b0 b1 b2 b3).setWidth 52).toNat = (floatFrac b0 b1 b3).toNat * 2 ^ 30 ∧
    binary64Value (floatBits64 b0 b1 b2 b3) = floatValue b0 b1 b2 b3

/-- R143: bit 22 of the raw mantissa weighs `2^-1`, .., bit 1 weighs `2^-22`, bit 0 nothing; the sum is `frac / 2^22`. -/
def Obligations.FractionIsTheBitSum : Prop :=
  ∀ b0 b1 b3 : Byte,
    ((List.range 22).map fun k =>
      if (floatRawMantissa b0 b1 b3).getLsbD (22 - k) then (1 : Rat) / 2 ^ (k + 1) else 0).sum =
      (((floatRawMantissa b0 b1 b3) >>> 1).toNat : Rat) / 2 ^ 22 ∧
    (floatFrac b0 b1 b3).toNat = ((floatRawMantissa b0 b1 b3) >>> 1).toNat

/-- R145: the result range; the decoder never returns zero. -/
def Obligations.FloatRange : Prop :=
  ∀ b0 b1 b2 b3 : Byte,
    (2 : Rat) ^ (-127 : Int) ≤ |floatValue b0 b1 b2 b3| ∧
    |floatValue b0 b1 b2 b3| ≤ (2 - (2 : Rat) ^ (-22 : Int)) * 2 ^ 128

/-- R147: two byte patterns decode to the same value exactly when they agree in everything but bit 0 of `b1`. -/
def Obligations.OnlyTheDroppedBitIsLost : Prop :=
  ∀ b0 b1 b2 b3 c0 c1 c2 c3 : Byte,
    floatBits64 b0 b1 b2 b3 = floatBits64 c0 c1 c2 c3 ↔
      b0 = c0 ∧ b1 >>> 1 = c1 >>> 1 ∧ b2 = c2 ∧ b3 = c3

/-! ### Frame Codec and Register Map -/

/-- R160: `BLDRD` (`opc` 0x03) of a word count other than 0 gives the 7-byte read request and writes `ACC` alone; of 0 it
is refused. -/
def Obligations.BldrdBuildsTheReadRequest : Prop :=
  (∀ c : Cmd, c.opc = 0x03#8 → decode (.cmd c) = .ok (.bldrd c.a c.b)) ∧
  (∀ a s, exec (.bldrd a 0#16) s = .refused .wordCountZero) ∧
  ∀ a b s, b ≠ 0#16 →
    let p := [0x03#8, hi8 a, lo8 a, hi8 b, lo8 b]
    ∃ t, exec (.bldrd a b) s = .next t ∧
      ChecksumPrimitive p (.ok (.frame (p ++ [lo8 (checksum16 p), hi8 (checksum16 p)]))) s t

/-- R172: `BLDWR` (`opc` 0x05) gives the 7-byte write request, for every address and every two value bytes, and writes
`ACC` alone. -/
def Obligations.BldwrBuildsTheWriteRequest : Prop :=
  (∀ (c : Cmd) (vh vl : Byte), c.opc = 0x05#8 → c.buf = [vh, vl] → decode (.cmd c) = .ok (.bldwr c.a vh vl)) ∧
  ∀ a vh vl s,
    let p := [0x06#8, hi8 a, lo8 a, vh, vl]
    ∃ t, exec (.bldwr a vh vl) s = .next t ∧
      ChecksumPrimitive p (.ok (.frame (p ++ [lo8 (checksum16 p), hi8 (checksum16 p)]))) s t

/-- R165: `PRSRD` (`opc` 0x04) of a frame of the stated length, even and at least 6, compares the two checksums and gives
the bytes `f[2 .. n-3]` or `ChecksumError`; any other operands are refused. -/
def Obligations.PrsrdParsesTheReply : Prop :=
  (∀ c : Cmd, c.opc = 0x04#8 → decode (.cmd c) = .ok (.prsrd c.buf c.n)) ∧
  (∀ f n s, ¬(f.length = n ∧ 6 ≤ n ∧ n % 2 = 0) → exec (.prsrd f n) s = .refused .frameLengthOperand) ∧
  ∀ f n s, f.length = n → 6 ≤ n → n % 2 = 0 →
    ∃ t, exec (.prsrd f n) s = .next t ∧
      ChecksumPrimitive (f.take (n - 2))
        (if checksum16 (f.take (n - 2)) = join16 (f.getD (n - 1) 0#8) (f.getD (n - 2) 0#8) then
          .ok (.bytes ((f.take (n - 2)).drop 2)) else .err .checksumError) s t

/-- R176: `PRSWR` (`opc` 0x06) succeeds exactly when the received frame is the sent one, and uses no checksum. -/
def Obligations.PrswrComparesTheEcho : Prop :=
  (∀ c : Cmd, c.opc = 0x06#8 → decode (.cmd c) = .ok (.prswr c.buf c.buf2)) ∧
  ∀ sent received s,
    ∃ t, exec (.prswr sent received) s = .next t ∧
      PlainPrimitive (if received = sent then .ok .unit else .err .registerWriteMismatch) s t

/-- R177 (a): building a write request and feeding the identical bytes back parses as success. -/
def Obligations.WriteRoundTripParses : Prop :=
  ∀ a vh vl s t f, exec (.bldwr a vh vl) s = .next t → t.res = some (.ok (.frame f)) →
    ∃ u, exec (.prswr f f) t = .next u ∧ Presents (.ok .unit) u

/-- R190, R191, R195, R199: `LOOKUP` (`opc` 0x07) of each of the 21 numbers returns the tuple that the map gives its name,
with the two access booleans of its row, and is refused above 20; the tuple of `TEMP_C` is fixed. -/
def Obligations.LookupReturnsTheEntry : Prop :=
  (∀ cfg n r row rd wr, (n, r, row, rd, wr) ∈ regTable cfg →
    (∀ c : Cmd, c.opc = 0x07#8 → c.regid = n → decode (.cmd c) = .ok (.lookup r)) ∧
    ∀ s, s.cfg = cfg → ∃ t, exec (.lookup r) s = .next t ∧
      PlainPrimitive (.ok (.entry ⟨row.address, row.wordCount, row.kind, rd, wr⟩)) s t) ∧
  (∀ c : Cmd, c.opc = 0x07#8 → 20 < c.regid.toNat → decode (.cmd c) = .error .unknownRegid)

/-! ### Client operations: reads -/

/-- R190, R232: every read, by its number, under every answer of the transport. One request, one call to `0x5F` for
`2 * word_count + 4` bytes; the result by `Fail`, length, checksum and decode kind, in that order. What the Checksum
Engine's elements hold afterwards is the model's choice (log 23), and so is the decode kind, where it is not raw-u16, for
MODE, STATUS and DETAILED_STATUS (log 37). -/
def Obligations.ReadsRunTheGenericSequence : Prop :=
  (∀ (c : Cmd) i r, c.opc = 0x10#8 → readOps[c.regid.toNat]? = some (i, r) → decode (.cmd c) = .ok i) ∧
  ∀ i r, (i, r) ∈ readOps → ∀ s,
    s.cfg.Conforming → replyLen (s.cfg.row r).wordCount ≤ s.cfg.rxbufDepth → s.turns ≠ [] →
    ∃ t, exec i s = .next t ∧
      OneTransaction (readCall s.cfg r)
        (readResult (readCall s.cfg r).n (s.cfg.row r).kind (answerOf s (readCall s.cfg r))) s t ∧
      t.txbuf.bytes = (readCall s.cfg r).wbytes ∧
      EngineRan (lastChecked (readCall s.cfg r) (answerOf s (readCall s.cfg r))) t

/-- R241: the request of `RDREG.TEMP_C` is the source's literal example, under every configuration; that one which breaks
its constraints runs as any other is the model's choice (log 25). -/
def Obligations.TemperatureReadSendsTheLiteralRequest : Prop :=
  ∀ s x c ts, s.turns = .scripted (some [0x03#8, 0x04#8, 0x00#8, 0x00#8, 0x41#8, 0xBC#8, 0x74#8, 0x17#8]) x c :: ts →
    8 ≤ s.cfg.rxbufDepth →
    ∃ t, exec .rdregTempC s = .next t ∧
      t.calls = [⟨0x5F#8, [0x03#8, 0x03#8, 0xEA#8, 0x00#8, 0x02#8, 0xE8#8, 0xC5#8], 8⟩] ∧
      Presents (.ok (.f64 0x4037800000000000#64)) t

/-- R24, R104: a read whose reply does not fit `RXBUF` is refused, presented as a command or as its frame (log 15, 16). -/
def Obligations.ReadsTooLongForTheBufferAreRefused : Prop :=
  ∀ i r, (i, r) ∈ readOps → ∀ s crc,
    s.cfg.Conforming → s.cfg.rxbufDepth < replyLen (s.cfg.row r).wordCount →
    exec i s = .refused .replyTooLong ∧
      exec (.rqR (s.cfg.row r).address (s.cfg.row r).wordCount crc) s = .refused .replyTooLong

/-- R197, R264: a serial number or sensor name read whose reply passes the checks gives exactly its middle 16 bytes. -/
def Obligations.BlobReadsReturnTheMiddleSixteenBytes : Prop :=
  ∀ i r, (i, r) ∈ [(Instr.rdregSerial, RegName.serial), (.rdregName, .name)] → ∀ s f x c ts,
    s.cfg.Conforming → s.turns = .scripted (some f) x c :: ts → f.length = 20 →
    checksum16 (f.take 18) = join16 (f.getD 19 0#8) (f.getD 18 0#8) →
    ∃ t, exec i s = .next t ∧ Presents (.ok (.bytes ((f.drop 2).take 16))) t

/-! ### Client operations: writes -/

/-- R256, R314: `WRREG.INTERVAL` of 100..36000 runs the write sequence with the operand's 16 bits; any other operand is
rejected before any transport call, and no device state changes. The rejection is stated under every configuration; that
it comes also where the row of INTERVAL breaks R194 or R196, for which R353 gives no rule, is the model's choice (log 25).
What the Checksum Engine's elements hold after the write is the model's choice (log 23). -/
def Obligations.IntervalWriteIsValidated : Prop :=
  (∀ c : Cmd, c.opc = 0x11#8 → c.regid = 0x09#8 → decode (.cmd c) = .ok (.wrregInterval c.v)) ∧
  ∀ (v : BitVec 32) s,
    (99 < v.toInt → v.toInt < 36001 → s.cfg.Conforming → s.turns ≠ [] →
      ∃ t, exec (.wrregInterval v) s = .next t ∧ WriteRan .interval (BitVec.ofInt 16 v.toInt) s t) ∧
    (¬(99 < v.toInt ∧ v.toInt < 36001) →
      ∃ t, exec (.wrregInterval v) s = .next t ∧ RejectedEarly .invalidIntervalInput s t)

/-- R257, R315: `WRREG.FILTER` of 1..20 runs the write sequence with the operand's 16 bits; any other operand is rejected
before any transport call, and no device state changes. The rejection is stated under every configuration; that it comes
also where the row of FILTER breaks R194 or R196, for which R353 gives no rule, is the model's choice (log 25). What the
Checksum Engine's elements hold after the write is the model's choice (log 23). -/
def Obligations.FilterWriteIsValidated : Prop :=
  (∀ c : Cmd, c.opc = 0x11#8 → c.regid = 0x0A#8 → decode (.cmd c) = .ok (.wrregFilter c.v)) ∧
  ∀ (v : BitVec 32) s,
    (0 < v.toInt → v.toInt < 21 → s.cfg.Conforming → s.turns ≠ [] →
      ∃ t, exec (.wrregFilter v) s = .next t ∧ WriteRan .filter (BitVec.ofInt 16 v.toInt) s t) ∧
    (¬(0 < v.toInt ∧ v.toInt < 21) →
      ∃ t, exec (.wrregFilter v) s = .next t ∧ RejectedEarly .invalidFilterInput s t)

/-- R250, R258 to R260, R181: the writes of OFFSET, CUST1 and CUST2 (numbers 11, 12, 13) send the operand modulo 65536
where it is in the range of the register's kind, and are refused elsewhere. What the Checksum Engine's elements hold after
the write is the model's choice (log 23). -/
def Obligations.PlainWritesRunInTheRangeOfTheKind : Prop :=
  (∀ c : Cmd, c.opc = 0x11#8 →
    (c.regid = 0x0B#8 → decode (.cmd c) = .ok (.wrregOffset c.v)) ∧
    (c.regid = 0x0C#8 → decode (.cmd c) = .ok (.wrregCust1 c.v)) ∧
    (c.regid = 0x0D#8 → decode (.cmd c) = .ok (.wrregCust2 c.v))) ∧
  ∀ (v : BitVec 32) i r, (i, r) ∈ [(Instr.wrregOffset v, RegName.offset), (.wrregCust1 v, .cust1), (.wrregCust2 v, .cust2)] →
    ∀ s, s.cfg.Conforming →
      let inRange := ((s.cfg.row r).kind = .rawU16 ∧ 0 ≤ v.toInt ∧ v.toInt ≤ 65535) ∨
        ((s.cfg.row r).kind = .signed16 ∧ -32768 ≤ v.toInt ∧ v.toInt ≤ 32767)
      (¬inRange → exec i s = .refused .valueOutOfRange) ∧
      (inRange → s.turns ≠ [] →
        ∃ t, exec i s = .next t ∧ WriteRan r (BitVec.ofInt 16 (v.toInt % 65536)) s t)

/-- R261: `WRREG.MODE` (number 17) of 0 sends the Continuous word, of 1 the SingleShot word; any other operand is refused.
What the Checksum Engine's elements hold after the write is the model's choice (log 23). -/
def Obligations.ModeWriteSendsTheModeWord : Prop :=
  (∀ c : Cmd, c.opc = 0x11#8 → c.regid = 0x11#8 → decode (.cmd c) = .ok (.wrregMode c.v)) ∧
  ∀ (v : BitVec 32) s, s.cfg.Conforming →
    (v.toInt ≠ 0 → v.toInt ≠ 1 → exec (.wrregMode v) s = .refused .modeOperand) ∧
    (s.turns ≠ [] →
      (v.toInt = 0 → ∃ t, exec (.wrregMode v) s = .next t ∧ WriteRan .mode s.cfg.modeContinuous s t) ∧
      (v.toInt = 1 → ∃ t, exec (.wrregMode v) s = .next t ∧ WriteRan .mode s.cfg.modeSingleShot s t))

/-- R262: `WRREG.TRIGGER` (number 20), whatever `v`, always sends the trigger word, whatever the device's mode and flags.
What the Checksum Engine's elements hold after the write is the model's choice (log 23). -/
def Obligations.TriggerAlwaysSends : Prop :=
  (∀ c : Cmd, c.opc = 0x11#8 → c.regid = 0x14#8 → decode (.cmd c) = .ok .wrregTrigger) ∧
  ∀ s, s.cfg.Conforming → s.turns ≠ [] →
    ∃ t, exec .wrregTrigger s = .next t ∧ WriteRan .trigger s.cfg.trigVal s t

/-! ### The bulk read and the wire frames -/

/-- R275: `GETALL` (`opc` 0x12) makes one call to `0x5E` for 8 bytes, checks only the length, and writes neither `ACC`
nor `TXBUF`. It is stated under every configuration: that one which breaks its constraints, an `RXBUF` of fewer than 8
bytes among them, runs as any other is the model's choice (log 25). That `RXBUF` keeps its content where no reply of 8
bytes came is log 23, that a call to `0x5E` leaves the device to its own drift is log 10. -/
def Obligations.GetallReadsTheBulkReply : Prop :=
  (∀ c : Cmd, c.opc = 0x12#8 → decode (.cmd c) = .ok .getall) ∧
  ∀ s, s.turns ≠ [] →
    let c : Call := ⟨0x5E#8, s.cfg.bulkCmd, 8⟩
    ∃ t, exec .getall s = .next t ∧
      OneTransaction c (bulkResult s.cfg.bulkLayout (answerOf s c)) s t ∧
      KeepsEngine s t ∧ t.txbuf = s.txbuf ∧
      (∀ answer x d ts, s.turns = .scripted answer x d :: ts → t.dev = s.dev.drift d)

/-- The model's choice (log 15): a read frame of a readable register and its whole length is the read of that register,
whatever checksum field is presented; every other frame is built with its right checksum and returned, and sent nowhere;
a frame of zero words is refused (R56). -/
def Obligations.ReadFrameIsTheReadItNames : Prop :=
  (∀ i r, (i, r) ∈ readOps → ∀ s crc, s.cfg.Conforming →
    let frame := Instr.rqR (s.cfg.row r).address (s.cfg.row r).wordCount crc
    exec frame s = exec i s ∧
    (replyLen (s.cfg.row r).wordCount ≤ s.cfg.rxbufDepth → s.turns ≠ [] →
      ∃ t, exec frame s = .next t ∧ t.calls = [readCall s.cfg r] ∧
        Presents (readResult (readCall s.cfg r).n (s.cfg.row r).kind (answerOf s (readCall s.cfg r))) t)) ∧
  (∀ addr crc s, exec (.rqR addr 0#16 crc) s = .refused .wordCountZero) ∧
  ∀ addr count crc s, count ≠ 0#16 →
    (∀ i r, (i, r) ∈ readOps → (s.cfg.row r).address = addr → (s.cfg.row r).wordCount ≠ count) →
    let p := [0x03#8, hi8 addr, lo8 addr, hi8 count, lo8 count]
    ∃ t, exec (.rqR addr count crc) s = .next t ∧
      ChecksumPrimitive p (.ok (.frame (p ++ [lo8 (checksum16 p), hi8 (checksum16 p)]))) s t

/-- The model's choice (log 15): a write frame to a writable register, with a word that register's write can send, is that
write, validated as it is (R205, R206), whatever checksum field is presented; every other frame is built with its right
checksum and returned, and sent nowhere. -/
def Obligations.WriteFrameIsTheWriteItNames : Prop :=
  ∀ addr w crc s, s.cfg.Conforming →
    (addr = (s.cfg.row .interval).address → exec (.rqW addr w crc) s = exec (.wrregInterval (w.setWidth 32)) s) ∧
    (addr = (s.cfg.row .filter).address → exec (.rqW addr w crc) s = exec (.wrregFilter (w.setWidth 32)) s) ∧
    (addr = (s.cfg.row .mode).address →
      (w = s.cfg.modeContinuous → exec (.rqW addr w crc) s = exec (.wrregMode 0#32) s) ∧
      (w = s.cfg.modeSingleShot → exec (.rqW addr w crc) s = exec (.wrregMode 1#32) s)) ∧
    (addr = (s.cfg.row .trigger).address → w = s.cfg.trigVal → exec (.rqW addr w crc) s = exec .wrregTrigger s) ∧
    (∀ r ∈ [RegName.offset, .cust1, .cust2], addr = (s.cfg.row r).address → s.turns ≠ [] →
      ∃ t, exec (.rqW addr w crc) s = .next t ∧ WriteRan r w s t) ∧
    ((∀ r ∈ [RegName.interval, .filter, .offset, .cust1, .cust2], addr ≠ (s.cfg.row r).address) →
      (addr = (s.cfg.row .mode).address → w ≠ s.cfg.modeContinuous ∧ w ≠ s.cfg.modeSingleShot) →
      (addr = (s.cfg.row .trigger).address → w ≠ s.cfg.trigVal) →
      let p := [0x06#8, hi8 addr, lo8 addr, hi8 w, lo8 w]
      ∃ t, exec (.rqW addr w crc) s = .next t ∧
        ChecksumPrimitive p (.ok (.frame (p ++ [lo8 (checksum16 p), hi8 (checksum16 p)]))) s t)

/-! ### Rules about every operation -/

/-- R318: the matrix of the failure codes each operation can return; a wire frame's are those of the reads or of the
writes it can be, the model's choice (log 15). -/
def Obligations.FailuresAreThoseOfTheMatrix : Prop :=
  ∀ i s t f, exec i s = .next t → t.res = some (.err f) → mayFail i f = true

/-- R231: a primitive makes no transport call, a client operation that passes VALIDATE exactly one, one that fails it
none; no operation, the two wire frames included (log 15), makes two. -/
def Obligations.TransactionCountIsAtMostOne : Prop :=
  ∀ i s t, exec i s = .next t →
    t.calls.length ≤ 1 ∧
    (isPrimitive i = true → t.calls = []) ∧
    (isClient i = true →
      (t.res = some (.err .invalidIntervalInput) ∨ t.res = some (.err .invalidFilterInput) → t.calls = []) ∧
      (t.res ≠ some (.err .invalidIntervalInput) → t.res ≠ some (.err .invalidFilterInput) → t.calls.length = 1))

/-- R26, R230: the phases of a command never move backward, and the last one is where the core stands. -/
def Obligations.PhasesNeverMoveBackward : Prop :=
  ∀ i s t, exec i s = .next t → Forward t.path ∧ t.path.getLast? = some t.phase

/-- R36: the result and the call of an operation are a function of its operands, the configuration and the transport's
answer: nothing in the core, in the device or in an earlier command matters. An answer computed from the device (the
faithful and the reference turn) depends on the device and is left out. -/
def Obligations.ResultDependsOnAnswerOnly : Prop :=
  ∀ i s₁ s₂ answer x₁ x₂ c₁ c₂ ts₁ ts₂, s₁.cfg = s₂.cfg →
    s₁.turns = .scripted answer x₁ c₁ :: ts₁ → s₂.turns = .scripted answer x₂ c₂ :: ts₂ →
    (∀ r, exec i s₁ = .refused r → exec i s₂ = .refused r) ∧
    ∀ t₁, exec i s₁ = .next t₁ →
      ∃ t₂, exec i s₂ = .next t₂ ∧ t₂.res = t₁.res ∧ t₂.calls = t₁.calls ∧ t₂.path = t₁.path

/-- R40, R336: an operation runs without an answer at hand wherever it runs with one, with the same call. One that makes
its call then waits in TRANSACT with that one call made, the bus held, no result, and the device, `RXBUF`, `RXLEN`, port
and configuration as before; when the answer comes, the step gives the state that the operation would have given at once. -/
def Obligations.WaitingChangesNothing : Prop :=
  ∀ i s, s.schedule = [] → s.turns = [] →
    (∀ turn u, exec i { s with turns := [turn] } = .next u → ∃ t, exec i s = .next t ∧ t.calls = u.calls) ∧
    ∀ t, exec i s = .next t → t.calls ≠ [] →
    t.phase = .transact ∧ t.busHeld = true ∧ t.res = none ∧ (∃ p, t.pending = some p ∧ t.calls = [p.call]) ∧
    t.dev = s.dev ∧ t.rxbuf = s.rxbuf ∧ t.rxlen = s.rxlen ∧ KeepsPort s t ∧
    ∀ turn, step { t with turns := [turn] } = exec i { s with turns := [turn] }

/-- R30, R40: what no operation touches. -/
def Obligations.OperationsKeepPortAndConfiguration : Prop :=
  ∀ i s t, exec i s = .next t → KeepsPort s t

/-! ### The device -/

/-- R292: the mode changes only when a write frame addressed to the `MODE` register goes out to `0x5F`: the request in
flight, the request of the command that the step ran, or a frame of another bus user (R58). That only a frame with a
right checksum counts is the model's reading (log 14). -/
def Obligations.ModeChangesOnlyByModeWrite : Prop :=
  ∀ s t, MachineInv s → step s = .next t → t.dev.mode ≠ s.dev.mode →
    ∃ w, let frame := requestBytes 0x06#8 (s.cfg.row .mode).address w
      (∃ p, s.pending = some p ∧ p.call.addr = 0x5F#8 ∧ p.call.wbytes = frame) ∨
      (s.phase = .idle ∧ s.cmdPort ≠ [] ∧ ∃ call, t.calls = [call] ∧ call.addr = 0x5F#8 ∧ call.wbytes = frame) ∨
      (s.busHeld = false ∧ ∃ c ms, s.schedule = .otherUser frame c :: ms)

/-- R292: a mode write that reaches the device sets the requested mode, one that does not leaves it; with its echo for an
answer it has reached the device. -/
def Obligations.DeliveredModeWriteSetsTheMode : Prop :=
  ∀ s answer x c ts, s.cfg.Conforming → s.turns = .scripted answer x c :: ts →
    ∀ v word mode, (v, word, mode) ∈
        [(0#32, s.cfg.modeContinuous, Mode.continuous), (1#32, s.cfg.modeSingleShot, .singleShot)] →
      ∃ t, exec (.wrregMode v) s = .next t ∧
        (x = true ∨ answer = some (requestBytes 0x06#8 (s.cfg.row .mode).address word) → t.dev.mode = mode) ∧
        (x = false → answer ≠ some (requestBytes 0x06#8 (s.cfg.row .mode).address word) → t.dev.mode = s.dev.mode)

/-- R293, R294, R295: a trigger that reaches a device in SingleShot, trigger ready, with none pending, starts a
measurement (from Available: log 11); in Continuous mode, not ready or pending, the device is unsettled, and its mode
does not change. -/
def Obligations.TriggerStartsAMeasurement : Prop :=
  ∀ s answer c ts, s.cfg.Conforming → s.turns = .scripted answer true c :: ts →
    ∃ t, exec .wrregTrigger s = .next t ∧ t.dev.mode = s.dev.mode ∧
      (s.dev.mode = .singleShot → s.dev.settled = true → s.dev.trigReady = true → s.dev.phase ≠ .pending →
        t.dev.phase = .pending ∧ t.dev.settled = true) ∧
      (s.dev.mode = .continuous ∨ s.dev.trigReady = false ∨ s.dev.phase = .pending → t.dev.settled = false)

/-- R293: the device by itself finishes a pending measurement: Available, data ready, and a new measurement (log 35). No
such move starts one or changes the mode; in SingleShot nothing else makes data ready true; nothing but the device
changes. -/
def Obligations.DeviceFinishesAMeasurement : Prop :=
  ∀ s finish c ms, s.schedule = .device finish c :: ms →
    ∃ d, step s = .next { s with schedule := ms, dev := d } ∧ d.mode = s.dev.mode ∧
      (finish = true → s.dev.mode = .singleShot → s.dev.settled = true → s.dev.phase = .pending →
        d.phase = .available ∧ d.dataReady = true ∧ d.measurements = s.dev.measurements + 1) ∧
      (s.dev.mode = .singleShot → s.dev.settled = true → d.phase = .pending → s.dev.phase = .pending) ∧
      (s.dev.mode = .singleShot → s.dev.settled = true → d.dataReady = true →
        s.dev.dataReady = true ∨ (finish = true ∧ s.dev.phase = .pending))

/-- The frame of the device registers for the writes (R57, R59): a write that reaches the device changes the two bytes
of its register and what the device changes by itself, and stores the word (what the device makes of it later is free,
log 13); one that does not reach it stores nothing. An echoed write has reached it (R292). -/
def Obligations.WritesStoreOneWord : Prop :=
  ∀ i r w, ∀ s answer x c ts, s.cfg.Conforming → s.turns = .scripted answer x c :: ts →
    ((i = .wrregTrigger ∧ r = .trigger ∧ w = s.cfg.trigVal) ∨
      (i = .wrregMode 0#32 ∧ r = .mode ∧ w = s.cfg.modeContinuous) ∨
      (i = .wrregMode 1#32 ∧ r = .mode ∧ w = s.cfg.modeSingleShot) ∨
      (∃ v : BitVec 32, (i, r) ∈ [(Instr.wrregOffset v, RegName.offset), (.wrregCust1 v, .cust1), (.wrregCust2 v, .cust2),
        (.wrregInterval v, .interval), (.wrregFilter v, .filter)] ∧ w = BitVec.ofInt 16 v.toInt)) →
    ∀ t, exec i s = .next t → t.calls ≠ [] →
      (∀ a, a ∉ driftCells c → a ≠ Memory.cellHi (s.cfg.row r).address → a ≠ Memory.cellLo (s.cfg.row r).address →
        Memory.read t.dev.content a = Memory.read s.dev.content a) ∧
      (x = true ∨ answer = some (writeCall s.cfg r w).wbytes → c.content = [] →
        Memory.read t.dev.content (Memory.cellHi (s.cfg.row r).address) = some (hi8 w) ∧
        Memory.read t.dev.content (Memory.cellLo (s.cfg.row r).address) = some (lo8 w)) ∧
      (x = false → answer ≠ some (writeCall s.cfg r w).wbytes → ∀ a, a ∉ driftCells c → Memory.read t.dev.content a = Memory.read s.dev.content a)

/-- The frame of the device registers for the operations that store nothing there: the reads, the bulk read and the read
frame leave every byte that the device does not change by itself (R59); a write frame every such byte outside the two
of the register it names. The two frames as operations are the model's choice (log 15). -/
def Obligations.ReadsStoreNothing : Prop :=
  ∀ s answer x c ts, s.turns = .scripted answer x c :: ts →
    (∀ i, (i = .getall ∨ (∃ addr count crc, i = .rqR addr count crc) ∨ ∃ r, (i, r) ∈ readOps) →
      ∀ t, exec i s = .next t → ∀ a, a ∉ driftCells c → Memory.read t.dev.content a = Memory.read s.dev.content a) ∧
    (∀ addr value crc t, exec (.rqW addr value crc) s = .next t →
      ∀ a, a ∉ driftCells c → a ≠ Memory.cellHi addr → a ≠ Memory.cellLo addr →
        Memory.read t.dev.content a = Memory.read s.dev.content a)

/-- R301, the reference device (a simulation aid; its header bytes and its consecutive words are general knowledge, log
27): a customer register written and then read gives the written value. -/
def Obligations.ReferenceDeviceReadsBackWhatWasWritten : Prop :=
  ∀ (v : BitVec 32) i j r, (i, j, r) ∈ [(Instr.wrregOffset v, Instr.rdregOffset, RegName.offset),
      (.wrregCust1 v, .rdregCust1, .cust1), (.wrregCust2 v, .rdregCust2, .cust2)] →
    ∀ s w ts, s.cfg.Conforming → encodeValue (s.cfg.row r).kind v = some w → s.turns = .reference :: .reference :: ts →
      ∃ t u, exec i s = .next t ∧ Presents (.ok .unit) t ∧
        exec j t = .next u ∧ Presents (.ok (decodeValue (s.cfg.row r).kind [hi8 w, lo8 w])) u

/-- R290, R292, R301: under the device machine, a mode write of 0 or of 1 succeeds and the mode read after it returns, in
the decode kind of `MODE`, a word that `mode_of` maps to the mode written, whatever the mode was. The reply's layout is
log 27, what the device machine answers log 28, another kind of `MODE` than raw-u16 log 37. -/
def Obligations.ModeReadAfterModeWriteShowsTheMode : Prop :=
  ∀ s c₁ c₂ ts v mode, s.cfg.Conforming → s.turns = .faithful c₁ :: .faithful c₂ :: ts →
    (v, mode) ∈ [(0#32, Mode.continuous), (1#32, .singleShot)] →
    ∃ t u w, exec (.wrregMode v) s = .next t ∧ Presents (.ok .unit) t ∧
      exec .rdregMode t = .next u ∧ Presents (.ok (decodeValue (s.cfg.row .mode).kind [hi8 w, lo8 w])) u ∧
      modeOf s.cfg w = some mode

/-- R213, R267, R301: under the device machine, the status poll returns, in the decode kind of `STATUS`, a word that
shows the two flags at their bits. The reply's layout is log 27, what the device machine answers log 28,
another kind of `STATUS` than raw-u16 log 37. -/
def Obligations.StatusPollShowsTheFlags : Prop :=
  ∀ s c ts, s.cfg.Conforming → s.turns = .faithful c :: ts →
    ∃ t w, exec .rdregStatus s = .next t ∧
      Presents (.ok (decodeValue (s.cfg.row .status).kind [hi8 w, lo8 w])) t ∧
      triggerReady s.cfg w = s.dev.trigReady ∧ dataReady s.cfg w = s.dev.dataReady

/-- R55, R58: between two transactions another user of the bus acts on the device as the core's own frames would (R292 to
R295). Its mode write sets the mode, and another word there leaves the device unsettled (log 32). Its trigger starts a
measurement where it is meaningful (from Available: log 11) and leaves the device unsettled where it is not, as another
word there does (log 10, 12). Its write to another writable register stores the word (log 13). A write elsewhere, a read
and a frame that is no request (log 14) leave the device to its own drift. While the core holds the bus the frame has no
effect; nothing but the device changes. The move is the model's (log 26). -/
def Obligations.OtherUserActsOnTheDeviceAlone : Prop :=
  ∀ s f c ms, s.schedule = .otherUser f c :: ms →
    ∃ d, step s = .next { s with schedule := ms, dev := d } ∧
      (s.busHeld = true → d = s.dev) ∧
      (s.busHeld = false → s.cfg.Conforming →
        (∀ w, f = requestBytes 0x06#8 (s.cfg.row .mode).address w →
          (w = s.cfg.modeContinuous → d.mode = .continuous ∧ d.settled = true) ∧
          (w = s.cfg.modeSingleShot → d.mode = .singleShot ∧ d.settled = true) ∧
          (w ≠ s.cfg.modeContinuous → w ≠ s.cfg.modeSingleShot → d.settled = false)) ∧
        (∀ w, f = requestBytes 0x06#8 (s.cfg.row .trigger).address w →
          d.mode = s.dev.mode ∧
          (w = s.cfg.trigVal → s.dev.mode = .singleShot → s.dev.settled = true → s.dev.trigReady = true →
            s.dev.phase ≠ .pending → d.phase = .pending ∧ d.settled = true) ∧
          (w ≠ s.cfg.trigVal ∨ s.dev.mode = .continuous ∨ s.dev.trigReady = false ∨ s.dev.phase = .pending →
            d.settled = false)) ∧
        (∀ r w, r.writable = true → r ≠ .mode → r ≠ .trigger → f = requestBytes 0x06#8 (s.cfg.row r).address w →
          d = { s.dev with content := Memory.writeWord s.dev.content (s.cfg.row r).address w }.drift c) ∧
        (∀ a w, (∀ r, r.writable = true → (s.cfg.row r).address ≠ a) → f = requestBytes 0x06#8 a w →
          d = s.dev.drift c) ∧
        (∀ a n, f = requestBytes 0x03#8 a n → d = s.dev.drift c) ∧
        ((∀ a w, f ≠ requestBytes 0x03#8 a w ∧ f ≠ requestBytes 0x06#8 a w) → d = s.dev.drift c))

/-- R293 row 3, R296: under the device machine, a measurement register read in SingleShot with the measurement available
and data ready gives the value of the measurement finished last, in the register's kind, for whatever bytes that
measurement put there (a free value, log 35). The reply's layout is log 27. -/
def Obligations.MeasurementReadShowsTheFreshSample : Prop :=
  ∀ i r, (i, r) ∈ readOps → r.isMeasurement = true → ∀ s c ts,
    s.cfg.Conforming → replyLen (s.cfg.row r).wordCount ≤ s.cfg.rxbufDepth → s.turns = .faithful c :: ts →
    s.dev.mode = .singleShot → s.dev.settled = true → s.dev.phase = .available → s.dev.dataReady = true →
    ∃ t, exec i s = .next t ∧
      Presents (.ok (decodeValue (s.cfg.row r).kind
        (measuredBytes s.dev.measurements (s.cfg.row r).address (s.cfg.row r).wordCount.toNat))) t
end

