-- ==== Sys2Proof/Laws/Bits.lean ====
section
/-! SUPPORT. Splitting and joining 16-bit fields are inverse (R87 to R89). -/

namespace Sys2Proof

@[simp] theorem join16_hi8_lo8 (w : Word) : join16 (hi8 w) (lo8 w) = w := by
  ext i hi
  by_cases h : i < 8
  · simp [join16, hi8, lo8, h, BitVec.getLsbD_eq_getElem hi]
  · have h₁ : i - 8 < 8 := by omega
    simp [join16, hi8, lo8, h, h₁, show 8 + (i - 8) = i by omega, BitVec.getLsbD_eq_getElem hi]

@[simp] theorem hi8_join16 (h l : Byte) : hi8 (join16 h l) = h := by
  ext i hi
  have h₁ : 8 + i < 16 := by omega
  simp [join16, hi8, h₁, BitVec.getLsbD_eq_getElem hi]

@[simp] theorem lo8_join16 (h l : Byte) : lo8 (join16 h l) = l := by
  ext i hi
  have h₁ : i < 16 := by omega
  simp [join16, lo8]

@[simp] theorem decU16_enc (w : Word) : decU16 (hi8 w) (lo8 w) = w := join16_hi8_lo8 w

@[simp] theorem decCrc_enc (w : Word) : decCrc (lo8 w) (hi8 w) = w := join16_hi8_lo8 w

end Sys2Proof
end

