-- ==== Sys2Proof/Laws/Checksum.lean ====
section
/-! SUPPORT. The Checksum Engine: each step loses nothing, so a changed byte changes the checksum. -/

namespace Sys2Proof.Machine

/-- The inverse of the bit step: bit 15 of the result tells whether the polynomial was applied. -/
def bitStepBack (acc : Word) : Word :=
  if acc.getLsbD 15 then ((acc ^^^ Config.crcPoly) <<< 1) ||| 1#16 else acc <<< 1

theorem bitStepBack_bitStep (acc : Word) : bitStepBack (bitStep acc) = acc := by
  by_cases h : acc.getLsbD 0 = true
  · have h₁ : ((acc >>> 1) ^^^ Config.crcPoly).getLsbD 15 = true := by simp [Config.crcPoly]
    simp only [bitStep, bitStepBack, h, h₁, if_true, BitVec.xor_assoc, BitVec.xor_self, BitVec.xor_zero]
    ext i hi
    by_cases h₀ : i = 0
    · subst h₀; simpa [BitVec.getLsbD_eq_getElem hi] using h.symm
    · simp [h₀, show 1 + (i - 1) = i by omega, BitVec.getLsbD_eq_getElem hi, BitVec.getElem_one]
  · simp only [bitStep, bitStepBack, h]
    ext i hi
    by_cases h₀ : i = 0
    · subst h₀; simpa [BitVec.getLsbD_eq_getElem hi] using h
    · simp [h₀, show 1 + (i - 1) = i by omega, BitVec.getLsbD_eq_getElem hi]

theorem bitStep_injective {x y : Word} (h : bitStep x = bitStep y) : x = y := by
  rw [← bitStepBack_bitStep x, h, bitStepBack_bitStep]

theorem bitSteps_injective (n : Nat) {x y : Word} (h : bitSteps n x = bitSteps n y) : x = y := by
  induction n generalizing x y with
  | zero => exact h
  | succ n ih => exact bitStep_injective (ih h)

/-- For a fixed byte, different accumulators stay different. -/
theorem crcByte_injective_acc (b : Byte) {x y : Word} (h : crcByte x b = crcByte y b) : x = y := by
  have := bitSteps_injective 8 h
  simpa [loadByte] using this

/-- For a fixed accumulator, different bytes give different results. -/
theorem crcByte_injective_byte (x : Word) {a b : Byte} (h : crcByte x a = crcByte x b) : a = b := by
  have h₁ := bitSteps_injective 8 h
  simp only [loadByte] at h₁
  have h₂ : a.setWidth 16 = b.setWidth 16 := by
    have := congrArg (x ^^^ ·) h₁
    simpa [← BitVec.xor_assoc] using this
  have := congrArg (BitVec.setWidth 8) h₂
  simpa using this

/-- Different accumulators stay different over a whole byte sequence. -/
theorem foldl_crcByte_injective (p : List Byte) {x y : Word} (h : p.foldl crcByte x = p.foldl crcByte y) : x = y := by
  induction p generalizing x y with
  | nil => exact h
  | cons b p ih => exact crcByte_injective_acc b (ih h)

theorem checksum16_append (p q : List Byte) : checksum16 (p ++ q) = q.foldl crcByte (checksum16 p) := by
  simp [checksum16]

end Sys2Proof.Machine
end

