-- ==== Sys2Proof/Laws/Decode.lean ====
section
/-! SUPPORT. The decoder and the encoder, piece by piece. -/

namespace Sys2Proof

theorem RegName.mem_all (r : RegName) : r ∈ RegName.all := by cases r <;> decide

@[simp] theorem RegName.ofRegid_regid (r : RegName) : RegName.ofRegid r.regid = some r := by cases r <;> rfl

/-- A `regid` names a register exactly when it is at most 20 (R104). -/
theorem RegName.ofRegid_isSome (x : Byte) : (RegName.ofRegid x).isSome = true ↔ x.toNat ≤ 20 := by
  revert x; decide +kernel

theorem decode_readCmd (r : RegName) : decode (readCmd r) = decodeRead r := by
  simp [decode, readCmd, decodeCmd, withRegid]

theorem decode_writeCmd (r : RegName) (v : BitVec 32) : decode (writeCmd r v) = decodeWrite v r := by
  simp [decode, writeCmd, decodeCmd, withRegid]

theorem decodeWire_read (addr count crc : Word) :
    decodeWire (Config.fcRead :: enc16 addr ++ enc16 count ++ encCrc crc) = .ok (.rqR addr count crc) := by
  simp [decodeWire, enc16, encCrc]

theorem decodeWire_write (addr value crc : Word) :
    decodeWire (Config.fcWrite :: enc16 addr ++ enc16 value ++ encCrc crc) = .ok (.rqW addr value crc) := by
  simp [decodeWire, enc16, encCrc, Config.fcRead, Config.fcWrite]

end Sys2Proof
end

