-- ==== Sys2Proof/Laws/Memory.lean ====
section
/-! SUPPORT. The laws of the device register space: reads after writes, and that every operation keeps the canonical
form. -/

namespace Sys2Proof.Machine.Memory

theorem read_write_same (m : Memory) (a : Nat) (x : Byte) : (m.write a x).read a = some x := by
  induction m with
  | nil => simp [write, read]
  | cons c m ih =>
    by_cases h₁ : a < c.1
    · simp [write, read, h₁]
    · by_cases h₂ : a = c.1
      · simp [write, read, h₂]
      · have h₃ : ¬c.1 = a := fun h => h₂ h.symm
        simp [write, read, h₁, h₂, h₃, ih]

theorem read_write_other (m : Memory) {a b : Nat} (x : Byte) (h : b ≠ a) : (m.write a x).read b = m.read b := by
  induction m with
  | nil => simp [write, read, h.symm]
  | cons c m ih =>
    by_cases h₁ : a < c.1
    · simp [write, read, h₁, h.symm]
    · by_cases h₂ : a = c.1
      · have h₃ : ¬c.1 = b := fun e => h (e ▸ h₂.symm)
        simp [write, read, h₂, h₃]
      · simp [write, read, h₁, h₂, ih]

/-- What reading one byte after one store gives. -/
theorem read_write (m : Memory) (a b : Nat) (x : Byte) :
    (m.write a x).read b = if b = a then some x else m.read b := by
  by_cases h : b = a
  · simp [h, read_write_same]
  · simp [h, read_write_other m x h]

/-- The canonical form of a longer list: every later address is higher. -/
theorem wf_cons (c : Host.Cell) (m : Memory) :
    wf (c :: m) = true ↔ (∀ d ∈ m, c.1 < d.1) ∧ wf m = true := by
  induction m generalizing c with
  | nil => simp [wf]
  | cons d m ih =>
    have hd := ih d
    simp only [wf, Bool.and_eq_true, decide_eq_true_eq, List.mem_cons, forall_eq_or_imp] at *
    constructor
    · rintro ⟨h₁, h₂⟩
      exact ⟨⟨h₁, fun e he => Nat.lt_trans h₁ ((hd.1 h₂).1 e he)⟩, h₂⟩
    · rintro ⟨⟨h₁, -⟩, h₂⟩
      exact ⟨h₁, h₂⟩

theorem mem_write {m : Memory} {a : Nat} {x : Byte} {d : Host.Cell} (h : d ∈ m.write a x) : d = (a, x) ∨ d ∈ m := by
  induction m with
  | nil => simpa [write] using h
  | cons c m ih =>
    by_cases h₁ : a < c.1
    · simpa [write, h₁] using h
    · by_cases h₂ : a = c.1
      · simp only [write, h₂, lt_irrefl, if_true, if_false, List.mem_cons] at h ⊢
        tauto
      · simp only [write, h₁, h₂, if_false, List.mem_cons] at h ⊢
        rcases h with h | h
        · exact Or.inr (Or.inl h)
        · exact (ih h).imp_right Or.inr

theorem wf_write {m : Memory} (h : wf m = true) (a : Nat) (x : Byte) : wf (m.write a x) = true := by
  induction m with
  | nil => simp [write, wf]
  | cons c m ih =>
    obtain ⟨hc, hm⟩ := (wf_cons c m).1 h
    by_cases h₁ : a < c.1
    · simp only [write, h₁, if_true]
      refine (wf_cons _ _).2 ⟨fun d hd => ?_, h⟩
      rcases List.mem_cons.1 hd with rfl | hd
      · exact h₁
      · exact Nat.lt_trans h₁ (hc d hd)
    · by_cases h₂ : a = c.1
      · simp only [write, h₂, lt_irrefl, if_false, if_true]
        exact (wf_cons _ _).2 ⟨hc, hm⟩
      · simp only [write, h₁, h₂, if_false]
        refine (wf_cons _ _).2 ⟨fun d hd => ?_, ih hm⟩
        rcases mem_write hd with rfl | hd
        · omega
        · exact hc d hd

theorem wf_writeAll {m : Memory} (h : wf m = true) (cs : List Host.Cell) : wf (writeAll m cs) = true := by
  induction cs generalizing m with
  | nil => exact h
  | cons c cs ih => exact ih (wf_write h c.1 c.2)

theorem wf_writeWord {m : Memory} (h : wf m = true) (a w : Word) : wf (m.writeWord a w) = true :=
  wf_write (wf_write h _ _) _ _

/-- A list of stores leaves every other byte alone. -/
theorem read_writeAll_other (m : Memory) (cs : List Host.Cell) {b : Nat} (h : b ∉ cs.map (·.1)) :
    (writeAll m cs).read b = m.read b := by
  induction cs generalizing m with
  | nil => rfl
  | cons c cs ih =>
    simp only [List.map_cons, List.mem_cons, not_or] at h
    show (writeAll (m.write c.1 c.2) cs).read b = m.read b
    rw [ih _ h.2, read_write_other m c.2 h.1]

/-- A stored word leaves every byte outside its two cells alone. -/
theorem read_writeWord_other (m : Memory) (a w : Word) {b : Nat} (h₁ : b ≠ cellHi a) (h₂ : b ≠ cellLo a) :
    (m.writeWord a w).read b = m.read b := by
  rw [writeWord, read_write_other _ _ h₂, read_write_other _ _ h₁]

theorem read_writeWord_hi (m : Memory) (a w : Word) : (m.writeWord a w).read (cellHi a) = some (hi8 w) := by
  have h : cellHi a ≠ cellLo a := by simp [cellHi, cellLo]
  rw [writeWord, read_write_other _ _ h, read_write_same]

theorem read_writeWord_lo (m : Memory) (a w : Word) : (m.writeWord a w).read (cellLo a) = some (lo8 w) :=
  read_write_same _ _ _

end Sys2Proof.Machine.Memory
end

