-- ==== Sys2Proof/Laws/Device.lean ====
section
/-! SUPPORT. What each move of the device can do to the mode and to the canonical form of its registers. -/

namespace Sys2Proof.Machine

@[simp] theorem drift_mode (c : Drift) (d : Device) : (d.drift c).mode = d.mode := rfl
@[simp] theorem drift_settled (c : Drift) (d : Device) : (d.drift c).settled = d.settled := rfl
@[simp] theorem drift_content (c : Drift) (d : Device) : (d.drift c).content = Memory.writeAll d.content c.content := rfl
@[simp] theorem drift_phase (c : Drift) (d : Device) : (d.drift c).phase = d.driftPhase c := rfl
@[simp] theorem drift_dataReady (c : Drift) (d : Device) : (d.drift c).dataReady = d.driftDataReady c := rfl
@[simp] theorem drift_trigReady (c : Drift) (d : Device) : (d.drift c).trigReady = c.trigReady.getD d.trigReady := rfl
@[simp] theorem drift_measurements (c : Drift) (d : Device) :
    (d.drift c).measurements = if c.remeasure then d.measurements + 1 else d.measurements := rfl

/-- In SingleShot, settled, nothing but the end of a measurement makes data ready true (R293). -/
theorem driftDataReady_settled {c : Drift} {d : Device} (hm : d.mode = .singleShot) (hs : d.settled = true)
    (h : d.driftDataReady c = true) : d.dataReady = true := by
  simp [Device.driftDataReady, Device.phaseFree, hm, hs] at h
  exact h.1

/-- A write to another address than `MODE`'s leaves the mode (R292). -/
theorem receiveWrite_mode {cfg : Config} {a w : Word} {c : Drift} {d : Device} (h : a ≠ (cfg.row .mode).address) :
    (d.receiveWrite cfg a w c).mode = d.mode := by
  simp only [Device.receiveWrite, h, if_false]
  split
  · split <;> rfl
  · rfl

theorem receiveWrite_content (cfg : Config) (a w : Word) (c : Drift) (d : Device) :
    (d.receiveWrite cfg a w c).content =
      if writableAt cfg a then Memory.writeWord d.content a w else d.content := by
  simp only [Device.receiveWrite]
  split
  · rfl
  · split
    · split <;> rfl
    · rfl

/-- The mode changes only by a write frame addressed to the `MODE` register (R292). -/
theorem receive_mode_changed {cfg : Config} {f : List Byte} {c : Drift} {d : Device}
    (h : (d.receive cfg f c).mode ≠ d.mode) : ∃ w, readRequest f = some (.write (cfg.row .mode).address w) := by
  unfold Device.receive at h
  split at h
  · rename_i a w hw
    by_cases ha : a = (cfg.row .mode).address
    · exact ⟨w, ha ▸ hw⟩
    · rw [drift_mode, receiveWrite_mode ha] at h
      exact absurd rfl h
  · exact absurd rfl h
  · exact absurd rfl h

theorem ownMove_mode (f : Bool) (c : Drift) (d : Device) : (d.ownMove f c).mode = d.mode := by
  unfold Device.ownMove; split <;> rfl

/-- One transaction changes the mode only by such a frame at `0x5F`. -/
theorem answerTurn_mode_changed {cfg : Config} {d : Device} {call : Call} {t : Turn}
    (h : (answerTurn cfg d call t).2.mode ≠ d.mode) :
    call.addr = Config.periphAddr ∧ ∃ w, readRequest call.wbytes = some (.write (cfg.row .mode).address w) := by
  cases t with
  | scripted a x c =>
    simp only [answerTurn] at h
    split at h
    · rename_i hx
      rw [Bool.and_eq_true, beq_iff_eq] at hx
      exact ⟨hx.2, receive_mode_changed h⟩
    · exact absurd rfl h
  | faithful c =>
    simp only [answerTurn] at h
    split at h
    · rename_i hx; exact ⟨hx, receive_mode_changed h⟩
    · exact absurd rfl h
  | reference =>
    simp only [answerTurn] at h
    split at h
    · rename_i hx
      simp only at h
      split at h
      · exact ⟨hx, receive_mode_changed h⟩
      · exact absurd rfl h
    · exact absurd rfl h

/-! ### The canonical form -/

theorem drift_wf {d : Device} (c : Drift) (h : Memory.wf d.content = true) : Memory.wf (d.drift c).content = true :=
  Memory.wf_writeAll h _

theorem receive_wf {cfg : Config} {f : List Byte} {c : Drift} {d : Device} (h : Memory.wf d.content = true) :
    Memory.wf (d.receive cfg f c).content = true := by
  unfold Device.receive
  split
  · refine drift_wf c ?_
    rw [receiveWrite_content]
    split
    · exact Memory.wf_writeWord h _ _
    · exact h
  · exact drift_wf c h
  · exact drift_wf c h

theorem ownMove_wf {d : Device} (f : Bool) (c : Drift) (h : Memory.wf d.content = true) :
    Memory.wf (d.ownMove f c).content = true := by
  unfold Device.ownMove; split
  · exact drift_wf c h
  · exact drift_wf c h

theorem answerTurn_wf {cfg : Config} {d : Device} (call : Call) (t : Turn) (h : Memory.wf d.content = true) :
    Memory.wf (answerTurn cfg d call t).2.content = true := by
  cases t with
  | scripted a x c =>
    simp only [answerTurn]; split
    · exact receive_wf h
    · exact drift_wf c h
  | faithful c =>
    simp only [answerTurn]; split
    · exact receive_wf h
    · exact drift_wf c h
  | reference =>
    simp only [answerTurn]; split
    · simp only; split
      · exact receive_wf h
      · exact h
    · exact h

/-! ### Requests -/

/-- The device reads back the request that the core built for a read. -/
theorem readRequest_buildRead (a wc : Word) : readRequest (buildRead a wc).bytes = some (.read a wc) := by
  simp [readRequest, buildRead, buildRequest, Request.withCrc, Request.bytes, Config.fcRead]

/-- The device reads back the request that the core built for a write. -/
theorem readRequest_buildWrite (a w : Word) : readRequest (buildWrite a w).bytes = some (.write a w) := by
  simp [readRequest, buildWrite, buildRequest, Request.withCrc, Request.bytes, Config.fcRead, Config.fcWrite]

end Sys2Proof.Machine
end

