-- ==== Sys2Proof/Laws/State.lean ====
section
/-! SUPPORT. One lemma per field per state operation, true by rfl, so that no proof unfolds a record update. -/

namespace Sys2Proof.Machine

/-! ### `enter` -/

@[simp] theorem enter_phase (p : Phase) (s : State) : (enter p s).phase = p := rfl
@[simp] theorem enter_acc (p : Phase) (s : State) : (enter p s).acc = s.acc := rfl
@[simp] theorem enter_byteIdx (p : Phase) (s : State) : (enter p s).byteIdx = s.byteIdx := rfl
@[simp] theorem enter_bitCnt (p : Phase) (s : State) : (enter p s).bitCnt = s.bitCnt := rfl
@[simp] theorem enter_txbuf (p : Phase) (s : State) : (enter p s).txbuf = s.txbuf := rfl
@[simp] theorem enter_rxbuf (p : Phase) (s : State) : (enter p s).rxbuf = s.rxbuf := rfl
@[simp] theorem enter_rxlen (p : Phase) (s : State) : (enter p s).rxlen = s.rxlen := rfl
@[simp] theorem enter_res (p : Phase) (s : State) : (enter p s).res = s.res := rfl
@[simp] theorem enter_cmdPort (p : Phase) (s : State) : (enter p s).cmdPort = s.cmdPort := rfl
@[simp] theorem enter_pending (p : Phase) (s : State) : (enter p s).pending = s.pending := rfl
@[simp] theorem enter_busHeld (p : Phase) (s : State) : (enter p s).busHeld = s.busHeld := rfl
@[simp] theorem enter_dev (p : Phase) (s : State) : (enter p s).dev = s.dev := rfl
@[simp] theorem enter_cfg (p : Phase) (s : State) : (enter p s).cfg = s.cfg := rfl
@[simp] theorem enter_calls (p : Phase) (s : State) : (enter p s).calls = s.calls := rfl
@[simp] theorem enter_path (p : Phase) (s : State) : (enter p s).path = s.path ++ [p] := rfl
@[simp] theorem enter_turns (p : Phase) (s : State) : (enter p s).turns = s.turns := rfl
@[simp] theorem enter_schedule (p : Phase) (s : State) : (enter p s).schedule = s.schedule := rfl

/-! ### `accept` -/

@[simp] theorem accept_phase (s : State) : (accept s).phase = s.phase := rfl
@[simp] theorem accept_acc (s : State) : (accept s).acc = s.acc := rfl
@[simp] theorem accept_byteIdx (s : State) : (accept s).byteIdx = s.byteIdx := rfl
@[simp] theorem accept_bitCnt (s : State) : (accept s).bitCnt = s.bitCnt := rfl
@[simp] theorem accept_txbuf (s : State) : (accept s).txbuf = s.txbuf := rfl
@[simp] theorem accept_rxbuf (s : State) : (accept s).rxbuf = s.rxbuf := rfl
@[simp] theorem accept_rxlen (s : State) : (accept s).rxlen = s.rxlen := rfl
@[simp] theorem accept_res (s : State) : (accept s).res = none := rfl
@[simp] theorem accept_cmdPort (s : State) : (accept s).cmdPort = s.cmdPort := rfl
@[simp] theorem accept_pending (s : State) : (accept s).pending = none := rfl
@[simp] theorem accept_busHeld (s : State) : (accept s).busHeld = false := rfl
@[simp] theorem accept_dev (s : State) : (accept s).dev = s.dev := rfl
@[simp] theorem accept_cfg (s : State) : (accept s).cfg = s.cfg := rfl
@[simp] theorem accept_calls (s : State) : (accept s).calls = [] := rfl
@[simp] theorem accept_path (s : State) : (accept s).path = [] := rfl
@[simp] theorem accept_turns (s : State) : (accept s).turns = s.turns := rfl
@[simp] theorem accept_schedule (s : State) : (accept s).schedule = s.schedule := rfl

/-! ### `complete` -/

@[simp] theorem complete_phase (r : Res) (s : State) : (complete r s).phase = .done := rfl
@[simp] theorem complete_acc (r : Res) (s : State) : (complete r s).acc = s.acc := rfl
@[simp] theorem complete_byteIdx (r : Res) (s : State) : (complete r s).byteIdx = s.byteIdx := rfl
@[simp] theorem complete_bitCnt (r : Res) (s : State) : (complete r s).bitCnt = s.bitCnt := rfl
@[simp] theorem complete_txbuf (r : Res) (s : State) : (complete r s).txbuf = s.txbuf := rfl
@[simp] theorem complete_rxbuf (r : Res) (s : State) : (complete r s).rxbuf = s.rxbuf := rfl
@[simp] theorem complete_rxlen (r : Res) (s : State) : (complete r s).rxlen = s.rxlen := rfl
@[simp] theorem complete_res (r : Res) (s : State) : (complete r s).res = some r := rfl
@[simp] theorem complete_cmdPort (r : Res) (s : State) : (complete r s).cmdPort = s.cmdPort := rfl
@[simp] theorem complete_pending (r : Res) (s : State) : (complete r s).pending = s.pending := rfl
@[simp] theorem complete_busHeld (r : Res) (s : State) : (complete r s).busHeld = s.busHeld := rfl
@[simp] theorem complete_dev (r : Res) (s : State) : (complete r s).dev = s.dev := rfl
@[simp] theorem complete_cfg (r : Res) (s : State) : (complete r s).cfg = s.cfg := rfl
@[simp] theorem complete_calls (r : Res) (s : State) : (complete r s).calls = s.calls := rfl
@[simp] theorem complete_path (r : Res) (s : State) : (complete r s).path = s.path ++ [.done] := rfl
@[simp] theorem complete_turns (r : Res) (s : State) : (complete r s).turns = s.turns := rfl
@[simp] theorem complete_schedule (r : Res) (s : State) : (complete r s).schedule = s.schedule := rfl

/-! ### `succeed` -/

@[simp] theorem succeed_phase (v : Val) (s : State) : (succeed v s).phase = .done := rfl
@[simp] theorem succeed_acc (v : Val) (s : State) : (succeed v s).acc = s.acc := rfl
@[simp] theorem succeed_byteIdx (v : Val) (s : State) : (succeed v s).byteIdx = s.byteIdx := rfl
@[simp] theorem succeed_bitCnt (v : Val) (s : State) : (succeed v s).bitCnt = s.bitCnt := rfl
@[simp] theorem succeed_txbuf (v : Val) (s : State) : (succeed v s).txbuf = s.txbuf := rfl
@[simp] theorem succeed_rxbuf (v : Val) (s : State) : (succeed v s).rxbuf = s.rxbuf := rfl
@[simp] theorem succeed_rxlen (v : Val) (s : State) : (succeed v s).rxlen = s.rxlen := rfl
@[simp] theorem succeed_res (v : Val) (s : State) : (succeed v s).res = some (.ok v) := rfl
@[simp] theorem succeed_cmdPort (v : Val) (s : State) : (succeed v s).cmdPort = s.cmdPort := rfl
@[simp] theorem succeed_pending (v : Val) (s : State) : (succeed v s).pending = s.pending := rfl
@[simp] theorem succeed_busHeld (v : Val) (s : State) : (succeed v s).busHeld = s.busHeld := rfl
@[simp] theorem succeed_dev (v : Val) (s : State) : (succeed v s).dev = s.dev := rfl
@[simp] theorem succeed_cfg (v : Val) (s : State) : (succeed v s).cfg = s.cfg := rfl
@[simp] theorem succeed_calls (v : Val) (s : State) : (succeed v s).calls = s.calls := rfl
@[simp] theorem succeed_path (v : Val) (s : State) : (succeed v s).path = s.path ++ [.done] := rfl
@[simp] theorem succeed_turns (v : Val) (s : State) : (succeed v s).turns = s.turns := rfl
@[simp] theorem succeed_schedule (v : Val) (s : State) : (succeed v s).schedule = s.schedule := rfl

/-! ### `raise` -/

@[simp] theorem raise_phase (f : Failure) (s : State) : (raise f s).phase = .done := rfl
@[simp] theorem raise_acc (f : Failure) (s : State) : (raise f s).acc = s.acc := rfl
@[simp] theorem raise_byteIdx (f : Failure) (s : State) : (raise f s).byteIdx = s.byteIdx := rfl
@[simp] theorem raise_bitCnt (f : Failure) (s : State) : (raise f s).bitCnt = s.bitCnt := rfl
@[simp] theorem raise_txbuf (f : Failure) (s : State) : (raise f s).txbuf = s.txbuf := rfl
@[simp] theorem raise_rxbuf (f : Failure) (s : State) : (raise f s).rxbuf = s.rxbuf := rfl
@[simp] theorem raise_rxlen (f : Failure) (s : State) : (raise f s).rxlen = s.rxlen := rfl
@[simp] theorem raise_res (f : Failure) (s : State) : (raise f s).res = some (.err f) := rfl
@[simp] theorem raise_cmdPort (f : Failure) (s : State) : (raise f s).cmdPort = s.cmdPort := rfl
@[simp] theorem raise_pending (f : Failure) (s : State) : (raise f s).pending = s.pending := rfl
@[simp] theorem raise_busHeld (f : Failure) (s : State) : (raise f s).busHeld = s.busHeld := rfl
@[simp] theorem raise_dev (f : Failure) (s : State) : (raise f s).dev = s.dev := rfl
@[simp] theorem raise_cfg (f : Failure) (s : State) : (raise f s).cfg = s.cfg := rfl
@[simp] theorem raise_calls (f : Failure) (s : State) : (raise f s).calls = s.calls := rfl
@[simp] theorem raise_path (f : Failure) (s : State) : (raise f s).path = s.path ++ [.done] := rfl
@[simp] theorem raise_turns (f : Failure) (s : State) : (raise f s).turns = s.turns := rfl
@[simp] theorem raise_schedule (f : Failure) (s : State) : (raise f s).schedule = s.schedule := rfl

/-! ### `release` -/

@[simp] theorem release_phase (s : State) : (release s).phase = .idle := rfl
@[simp] theorem release_acc (s : State) : (release s).acc = s.acc := rfl
@[simp] theorem release_byteIdx (s : State) : (release s).byteIdx = s.byteIdx := rfl
@[simp] theorem release_bitCnt (s : State) : (release s).bitCnt = s.bitCnt := rfl
@[simp] theorem release_txbuf (s : State) : (release s).txbuf = s.txbuf := rfl
@[simp] theorem release_rxbuf (s : State) : (release s).rxbuf = s.rxbuf := rfl
@[simp] theorem release_rxlen (s : State) : (release s).rxlen = s.rxlen := rfl
@[simp] theorem release_res (s : State) : (release s).res = s.res := rfl
@[simp] theorem release_cmdPort (s : State) : (release s).cmdPort = s.cmdPort := rfl
@[simp] theorem release_pending (s : State) : (release s).pending = s.pending := rfl
@[simp] theorem release_busHeld (s : State) : (release s).busHeld = s.busHeld := rfl
@[simp] theorem release_dev (s : State) : (release s).dev = s.dev := rfl
@[simp] theorem release_cfg (s : State) : (release s).cfg = s.cfg := rfl
@[simp] theorem release_calls (s : State) : (release s).calls = s.calls := rfl
@[simp] theorem release_path (s : State) : (release s).path = s.path := rfl
@[simp] theorem release_turns (s : State) : (release s).turns = s.turns := rfl
@[simp] theorem release_schedule (s : State) : (release s).schedule = s.schedule := rfl

/-! ### `runEngine` -/

@[simp] theorem runEngine_phase (p : List Byte) (s : State) : (runEngine p s).phase = s.phase := rfl
@[simp] theorem runEngine_acc (p : List Byte) (s : State) : (runEngine p s).acc = checksum16 p := rfl
@[simp] theorem runEngine_byteIdx (p : List Byte) (s : State) : (runEngine p s).byteIdx = p.length + 1 := rfl
@[simp] theorem runEngine_bitCnt (p : List Byte) (s : State) : (runEngine p s).bitCnt = 0 := rfl
@[simp] theorem runEngine_txbuf (p : List Byte) (s : State) : (runEngine p s).txbuf = s.txbuf := rfl
@[simp] theorem runEngine_rxbuf (p : List Byte) (s : State) : (runEngine p s).rxbuf = s.rxbuf := rfl
@[simp] theorem runEngine_rxlen (p : List Byte) (s : State) : (runEngine p s).rxlen = s.rxlen := rfl
@[simp] theorem runEngine_res (p : List Byte) (s : State) : (runEngine p s).res = s.res := rfl
@[simp] theorem runEngine_cmdPort (p : List Byte) (s : State) : (runEngine p s).cmdPort = s.cmdPort := rfl
@[simp] theorem runEngine_pending (p : List Byte) (s : State) : (runEngine p s).pending = s.pending := rfl
@[simp] theorem runEngine_busHeld (p : List Byte) (s : State) : (runEngine p s).busHeld = s.busHeld := rfl
@[simp] theorem runEngine_dev (p : List Byte) (s : State) : (runEngine p s).dev = s.dev := rfl
@[simp] theorem runEngine_cfg (p : List Byte) (s : State) : (runEngine p s).cfg = s.cfg := rfl
@[simp] theorem runEngine_calls (p : List Byte) (s : State) : (runEngine p s).calls = s.calls := rfl
@[simp] theorem runEngine_path (p : List Byte) (s : State) : (runEngine p s).path = s.path := rfl
@[simp] theorem runEngine_turns (p : List Byte) (s : State) : (runEngine p s).turns = s.turns := rfl
@[simp] theorem runEngine_schedule (p : List Byte) (s : State) : (runEngine p s).schedule = s.schedule := rfl

/-! ### `loadTx` -/

@[simp] theorem loadTx_phase (q : Request) (s : State) : (loadTx q s).phase = s.phase := rfl
@[simp] theorem loadTx_acc (q : Request) (s : State) : (loadTx q s).acc = checksum16 q.body := rfl
@[simp] theorem loadTx_byteIdx (q : Request) (s : State) : (loadTx q s).byteIdx = q.body.length + 1 := rfl
@[simp] theorem loadTx_bitCnt (q : Request) (s : State) : (loadTx q s).bitCnt = 0 := rfl
@[simp] theorem loadTx_txbuf (q : Request) (s : State) : (loadTx q s).txbuf = q := rfl
@[simp] theorem loadTx_rxbuf (q : Request) (s : State) : (loadTx q s).rxbuf = s.rxbuf := rfl
@[simp] theorem loadTx_rxlen (q : Request) (s : State) : (loadTx q s).rxlen = s.rxlen := rfl
@[simp] theorem loadTx_res (q : Request) (s : State) : (loadTx q s).res = s.res := rfl
@[simp] theorem loadTx_cmdPort (q : Request) (s : State) : (loadTx q s).cmdPort = s.cmdPort := rfl
@[simp] theorem loadTx_pending (q : Request) (s : State) : (loadTx q s).pending = s.pending := rfl
@[simp] theorem loadTx_busHeld (q : Request) (s : State) : (loadTx q s).busHeld = s.busHeld := rfl
@[simp] theorem loadTx_dev (q : Request) (s : State) : (loadTx q s).dev = s.dev := rfl
@[simp] theorem loadTx_cfg (q : Request) (s : State) : (loadTx q s).cfg = s.cfg := rfl
@[simp] theorem loadTx_calls (q : Request) (s : State) : (loadTx q s).calls = s.calls := rfl
@[simp] theorem loadTx_path (q : Request) (s : State) : (loadTx q s).path = s.path := rfl
@[simp] theorem loadTx_turns (q : Request) (s : State) : (loadTx q s).turns = s.turns := rfl
@[simp] theorem loadTx_schedule (q : Request) (s : State) : (loadTx q s).schedule = s.schedule := rfl

/-! ### `buildOnly` -/

@[simp] theorem buildOnly_phase (q : Request) (s : State) : (buildOnly q s).phase = .done := rfl
@[simp] theorem buildOnly_acc (q : Request) (s : State) : (buildOnly q s).acc = checksum16 q.body := rfl
@[simp] theorem buildOnly_byteIdx (q : Request) (s : State) : (buildOnly q s).byteIdx = q.body.length + 1 := rfl
@[simp] theorem buildOnly_bitCnt (q : Request) (s : State) : (buildOnly q s).bitCnt = 0 := rfl
@[simp] theorem buildOnly_txbuf (q : Request) (s : State) : (buildOnly q s).txbuf = s.txbuf := rfl
@[simp] theorem buildOnly_rxbuf (q : Request) (s : State) : (buildOnly q s).rxbuf = s.rxbuf := rfl
@[simp] theorem buildOnly_rxlen (q : Request) (s : State) : (buildOnly q s).rxlen = s.rxlen := rfl
@[simp] theorem buildOnly_res (q : Request) (s : State) : (buildOnly q s).res = some (.ok (.frame q.bytes)) := rfl
@[simp] theorem buildOnly_cmdPort (q : Request) (s : State) : (buildOnly q s).cmdPort = s.cmdPort := rfl
@[simp] theorem buildOnly_pending (q : Request) (s : State) : (buildOnly q s).pending = none := rfl
@[simp] theorem buildOnly_busHeld (q : Request) (s : State) : (buildOnly q s).busHeld = false := rfl
@[simp] theorem buildOnly_dev (q : Request) (s : State) : (buildOnly q s).dev = s.dev := rfl
@[simp] theorem buildOnly_cfg (q : Request) (s : State) : (buildOnly q s).cfg = s.cfg := rfl
@[simp] theorem buildOnly_calls (q : Request) (s : State) : (buildOnly q s).calls = [] := rfl
@[simp] theorem buildOnly_path (q : Request) (s : State) : (buildOnly q s).path = [.done] := rfl
@[simp] theorem buildOnly_turns (q : Request) (s : State) : (buildOnly q s).turns = s.turns := rfl
@[simp] theorem buildOnly_schedule (q : Request) (s : State) : (buildOnly q s).schedule = s.schedule := rfl

/-! ### `loadRx` -/

@[simp] theorem loadRx_phase (r : List Byte) (n : Nat) (s : State) : (loadRx r n s).phase = s.phase := rfl
@[simp] theorem loadRx_acc (r : List Byte) (n : Nat) (s : State) : (loadRx r n s).acc = s.acc := rfl
@[simp] theorem loadRx_byteIdx (r : List Byte) (n : Nat) (s : State) : (loadRx r n s).byteIdx = s.byteIdx := rfl
@[simp] theorem loadRx_bitCnt (r : List Byte) (n : Nat) (s : State) : (loadRx r n s).bitCnt = s.bitCnt := rfl
@[simp] theorem loadRx_txbuf (r : List Byte) (n : Nat) (s : State) : (loadRx r n s).txbuf = s.txbuf := rfl
@[simp] theorem loadRx_rxbuf (r : List Byte) (n : Nat) (s : State) : (loadRx r n s).rxbuf = r := rfl
@[simp] theorem loadRx_rxlen (r : List Byte) (n : Nat) (s : State) : (loadRx r n s).rxlen = n := rfl
@[simp] theorem loadRx_res (r : List Byte) (n : Nat) (s : State) : (loadRx r n s).res = s.res := rfl
@[simp] theorem loadRx_cmdPort (r : List Byte) (n : Nat) (s : State) : (loadRx r n s).cmdPort = s.cmdPort := rfl
@[simp] theorem loadRx_pending (r : List Byte) (n : Nat) (s : State) : (loadRx r n s).pending = s.pending := rfl
@[simp] theorem loadRx_busHeld (r : List Byte) (n : Nat) (s : State) : (loadRx r n s).busHeld = s.busHeld := rfl
@[simp] theorem loadRx_dev (r : List Byte) (n : Nat) (s : State) : (loadRx r n s).dev = s.dev := rfl
@[simp] theorem loadRx_cfg (r : List Byte) (n : Nat) (s : State) : (loadRx r n s).cfg = s.cfg := rfl
@[simp] theorem loadRx_calls (r : List Byte) (n : Nat) (s : State) : (loadRx r n s).calls = s.calls := rfl
@[simp] theorem loadRx_path (r : List Byte) (n : Nat) (s : State) : (loadRx r n s).path = s.path := rfl
@[simp] theorem loadRx_turns (r : List Byte) (n : Nat) (s : State) : (loadRx r n s).turns = s.turns := rfl
@[simp] theorem loadRx_schedule (r : List Byte) (n : Nat) (s : State) : (loadRx r n s).schedule = s.schedule := rfl

/-! ### `startCall` -/

@[simp] theorem startCall_phase (p : Pending) (s : State) : (startCall p s).phase = .transact := rfl
@[simp] theorem startCall_acc (p : Pending) (s : State) : (startCall p s).acc = s.acc := rfl
@[simp] theorem startCall_byteIdx (p : Pending) (s : State) : (startCall p s).byteIdx = s.byteIdx := rfl
@[simp] theorem startCall_bitCnt (p : Pending) (s : State) : (startCall p s).bitCnt = s.bitCnt := rfl
@[simp] theorem startCall_txbuf (p : Pending) (s : State) : (startCall p s).txbuf = s.txbuf := rfl
@[simp] theorem startCall_rxbuf (p : Pending) (s : State) : (startCall p s).rxbuf = s.rxbuf := rfl
@[simp] theorem startCall_rxlen (p : Pending) (s : State) : (startCall p s).rxlen = s.rxlen := rfl
@[simp] theorem startCall_res (p : Pending) (s : State) : (startCall p s).res = s.res := rfl
@[simp] theorem startCall_cmdPort (p : Pending) (s : State) : (startCall p s).cmdPort = s.cmdPort := rfl
@[simp] theorem startCall_pending (p : Pending) (s : State) : (startCall p s).pending = some p := rfl
@[simp] theorem startCall_busHeld (p : Pending) (s : State) : (startCall p s).busHeld = true := rfl
@[simp] theorem startCall_dev (p : Pending) (s : State) : (startCall p s).dev = s.dev := rfl
@[simp] theorem startCall_cfg (p : Pending) (s : State) : (startCall p s).cfg = s.cfg := rfl
@[simp] theorem startCall_calls (p : Pending) (s : State) : (startCall p s).calls = s.calls ++ [p.call] := rfl
@[simp] theorem startCall_path (p : Pending) (s : State) : (startCall p s).path = s.path ++ [.transact] := rfl
@[simp] theorem startCall_turns (p : Pending) (s : State) : (startCall p s).turns = s.turns := rfl
@[simp] theorem startCall_schedule (p : Pending) (s : State) : (startCall p s).schedule = s.schedule := rfl

/-! ### `endCall` -/

@[simp] theorem endCall_phase (ts : List Turn) (d : Device) (s : State) : (endCall ts d s).phase = s.phase := rfl
@[simp] theorem endCall_acc (ts : List Turn) (d : Device) (s : State) : (endCall ts d s).acc = s.acc := rfl
@[simp] theorem endCall_byteIdx (ts : List Turn) (d : Device) (s : State) : (endCall ts d s).byteIdx = s.byteIdx := rfl
@[simp] theorem endCall_bitCnt (ts : List Turn) (d : Device) (s : State) : (endCall ts d s).bitCnt = s.bitCnt := rfl
@[simp] theorem endCall_txbuf (ts : List Turn) (d : Device) (s : State) : (endCall ts d s).txbuf = s.txbuf := rfl
@[simp] theorem endCall_rxbuf (ts : List Turn) (d : Device) (s : State) : (endCall ts d s).rxbuf = s.rxbuf := rfl
@[simp] theorem endCall_rxlen (ts : List Turn) (d : Device) (s : State) : (endCall ts d s).rxlen = s.rxlen := rfl
@[simp] theorem endCall_res (ts : List Turn) (d : Device) (s : State) : (endCall ts d s).res = s.res := rfl
@[simp] theorem endCall_cmdPort (ts : List Turn) (d : Device) (s : State) : (endCall ts d s).cmdPort = s.cmdPort := rfl
@[simp] theorem endCall_pending (ts : List Turn) (d : Device) (s : State) : (endCall ts d s).pending = none := rfl
@[simp] theorem endCall_busHeld (ts : List Turn) (d : Device) (s : State) : (endCall ts d s).busHeld = false := rfl
@[simp] theorem endCall_dev (ts : List Turn) (d : Device) (s : State) : (endCall ts d s).dev = d := rfl
@[simp] theorem endCall_cfg (ts : List Turn) (d : Device) (s : State) : (endCall ts d s).cfg = s.cfg := rfl
@[simp] theorem endCall_calls (ts : List Turn) (d : Device) (s : State) : (endCall ts d s).calls = s.calls := rfl
@[simp] theorem endCall_path (ts : List Turn) (d : Device) (s : State) : (endCall ts d s).path = s.path := rfl
@[simp] theorem endCall_turns (ts : List Turn) (d : Device) (s : State) : (endCall ts d s).turns = ts := rfl
@[simp] theorem endCall_schedule (ts : List Turn) (d : Device) (s : State) : (endCall ts d s).schedule = s.schedule := rfl

/-! ### Reset -/

@[simp] theorem resetCore_phase (x : Bool) (c : Drift) (s : State) : (resetCore x c s).phase = .idle := rfl
@[simp] theorem resetCore_res (x : Bool) (c : Drift) (s : State) : (resetCore x c s).res = none := rfl
@[simp] theorem resetCore_pending (x : Bool) (c : Drift) (s : State) : (resetCore x c s).pending = none := rfl
@[simp] theorem resetCore_busHeld (x : Bool) (c : Drift) (s : State) : (resetCore x c s).busHeld = false := rfl
@[simp] theorem resetCore_calls (x : Bool) (c : Drift) (s : State) : (resetCore x c s).calls = [] := rfl
@[simp] theorem resetCore_path (x : Bool) (c : Drift) (s : State) : (resetCore x c s).path = [] := rfl
@[simp] theorem resetCore_cfg (x : Bool) (c : Drift) (s : State) : (resetCore x c s).cfg = s.cfg := rfl
@[simp] theorem resetCore_cmdPort (x : Bool) (c : Drift) (s : State) : (resetCore x c s).cmdPort = s.cmdPort := rfl
@[simp] theorem resetCore_turns (x : Bool) (c : Drift) (s : State) : (resetCore x c s).turns = s.turns := rfl
@[simp] theorem resetCore_schedule (x : Bool) (c : Drift) (s : State) : (resetCore x c s).schedule = s.schedule := rfl
@[simp] theorem resetCore_dev (x : Bool) (c : Drift) (s : State) : (resetCore x c s).dev = abandoned x c s := rfl

end Sys2Proof.Machine
end

