-- ==== Sys2Proof/Laws/Ops.lean ====
section
/-! SUPPORT. One spec lemma per shared operation: what the arrival of an answer, the wait and the transaction do to
each field. Callers cite these and do not unfold the operation. -/

namespace Sys2Proof.Machine

/-! ### `checkReply` -/

/-- What the CHECK and DECODE phases decide, as a pure function of the reply. -/
def checkedResult (x : Expect) (r : List Byte) (sent : Request) (l : BulkLayout) : Res :=
  match x with
  | .frame kind =>
    match parseRead r r.length with
    | .ok data => .ok (decodeValue kind data)
    | .error f => .err f
  | .echo => if r = sent.bytes then .ok .unit else .err .registerWriteMismatch
  | .bulk => .ok (bulkValue l r)

theorem checkReply_phase (x : Expect) (r : List Byte) (s : State) : (checkReply x r s).phase = .done := by
  cases x <;> simp only [checkReply] <;> (try split) <;> simp

theorem checkReply_res (x : Expect) (r : List Byte) (s : State) :
    (checkReply x r s).res = some (checkedResult x r s.txbuf s.cfg.bulkLayout) := by
  cases x with
  | frame kind => simp only [checkReply, checkedResult]; split <;> simp [*]
  | echo =>
    by_cases h : r = s.txbuf.bytes <;> simp [checkReply, checkedResult, parseWrite, h]
  | bulk => simp [checkReply, checkedResult]

/-- The phases after CHECK: DECODE on success, and DONE. -/
theorem checkReply_path (x : Expect) (r : List Byte) (s : State) :
    (checkReply x r s).path = s.path ++ [.decode, .done] ∨ (checkReply x r s).path = s.path ++ [.done] := by
  cases x <;> simp only [checkReply] <;> (try split) <;> simp

@[simp] theorem checkReply_cfg (x : Expect) (r : List Byte) (s : State) : (checkReply x r s).cfg = s.cfg := by
  cases x <;> simp only [checkReply] <;> (try split) <;> simp

@[simp] theorem checkReply_cmdPort (x : Expect) (r : List Byte) (s : State) : (checkReply x r s).cmdPort = s.cmdPort := by
  cases x <;> simp only [checkReply] <;> (try split) <;> simp

@[simp] theorem checkReply_schedule (x : Expect) (r : List Byte) (s : State) : (checkReply x r s).schedule = s.schedule := by
  cases x <;> simp only [checkReply] <;> (try split) <;> simp

@[simp] theorem checkReply_turns (x : Expect) (r : List Byte) (s : State) : (checkReply x r s).turns = s.turns := by
  cases x <;> simp only [checkReply] <;> (try split) <;> simp

@[simp] theorem checkReply_dev (x : Expect) (r : List Byte) (s : State) : (checkReply x r s).dev = s.dev := by
  cases x <;> simp only [checkReply] <;> (try split) <;> simp

@[simp] theorem checkReply_calls (x : Expect) (r : List Byte) (s : State) : (checkReply x r s).calls = s.calls := by
  cases x <;> simp only [checkReply] <;> (try split) <;> simp

@[simp] theorem checkReply_pending (x : Expect) (r : List Byte) (s : State) : (checkReply x r s).pending = s.pending := by
  cases x <;> simp only [checkReply] <;> (try split) <;> simp

@[simp] theorem checkReply_busHeld (x : Expect) (r : List Byte) (s : State) : (checkReply x r s).busHeld = s.busHeld := by
  cases x <;> simp only [checkReply] <;> (try split) <;> simp

@[simp] theorem checkReply_txbuf (x : Expect) (r : List Byte) (s : State) : (checkReply x r s).txbuf = s.txbuf := by
  cases x <;> simp only [checkReply] <;> (try split) <;> simp

@[simp] theorem checkReply_rxbuf (x : Expect) (r : List Byte) (s : State) : (checkReply x r s).rxbuf = s.rxbuf := by
  cases x <;> simp only [checkReply] <;> (try split) <;> simp

@[simp] theorem checkReply_rxlen (x : Expect) (r : List Byte) (s : State) : (checkReply x r s).rxlen = s.rxlen := by
  cases x <;> simp only [checkReply] <;> (try split) <;> simp

theorem checkReply_bitCnt (x : Expect) (r : List Byte) (s : State) (h : s.bitCnt = 0) :
    (checkReply x r s).bitCnt = 0 := by
  cases x <;> simp only [checkReply] <;> (try split) <;> simp [h]

/-- The engine runs over the reply's body for a read reply only (R126). -/
theorem checkReply_engine_frame (kind : DecodeKind) (r : List Byte) (s : State) :
    (checkReply (.frame kind) r s).acc = checksum16 (replyBody r r.length) ∧
      (checkReply (.frame kind) r s).byteIdx = (replyBody r r.length).length + 1 ∧
      (checkReply (.frame kind) r s).bitCnt = 0 := by
  simp only [checkReply]; split <;> simp

theorem checkReply_engine_echo (r : List Byte) (s : State) :
    (checkReply .echo r s).acc = s.acc ∧ (checkReply .echo r s).byteIdx = s.byteIdx ∧
      (checkReply .echo r s).bitCnt = s.bitCnt := by
  simp only [checkReply]; split <;> simp

theorem checkReply_engine_bulk (r : List Byte) (s : State) :
    (checkReply .bulk r s).acc = s.acc ∧ (checkReply .bulk r s).byteIdx = s.byteIdx ∧
      (checkReply .bulk r s).bitCnt = s.bitCnt := by
  simp [checkReply]

/-! ### `receive` -/

/-- The result of an operation by the transport's answer, in the order of R322. -/
def answeredResult (p : Pending) (answer : Option (List Byte)) (sent : Request) (l : BulkLayout) : Res :=
  match answer with
  | none => .err .notAcknowledged
  | some r => if r.length = p.call.n then checkedResult p.expect r sent l else .err .notAcknowledged

theorem receive_fail (p : Pending) (s : State) : receive p none s = raise .notAcknowledged s := rfl

theorem receive_wrongLength (p : Pending) {r : List Byte} (s : State) (h : r.length ≠ p.call.n) :
    receive p (some r) s = raise .notAcknowledged (enter .check s) := by
  simp [receive, h]

theorem receive_reply (p : Pending) {r : List Byte} (s : State) (h : r.length = p.call.n) :
    receive p (some r) s = checkReply p.expect r (loadRx r p.call.n (enter .check s)) := by
  simp [receive, h]

theorem receive_phase (p : Pending) (a : Option (List Byte)) (s : State) : (receive p a s).phase = .done := by
  cases a with
  | none => rfl
  | some r =>
    by_cases h : r.length = p.call.n
    · rw [receive_reply p s h]; exact checkReply_phase ..
    · rw [receive_wrongLength p s h]; rfl

theorem receive_res (p : Pending) (a : Option (List Byte)) (s : State) :
    (receive p a s).res = some (answeredResult p a s.txbuf s.cfg.bulkLayout) := by
  cases a with
  | none => rfl
  | some r =>
    by_cases h : r.length = p.call.n
    · rw [receive_reply p s h, checkReply_res]; simp [answeredResult, h]
    · rw [receive_wrongLength p s h]; simp [answeredResult, h]

/-- The phases after TRANSACT. -/
theorem receive_path (p : Pending) (a : Option (List Byte)) (s : State) :
    (receive p a s).path = s.path ++ [.done] ∨ (receive p a s).path = s.path ++ [.check, .done] ∨
      (receive p a s).path = s.path ++ [.check, .decode, .done] := by
  cases a with
  | none => exact .inl rfl
  | some r =>
    by_cases h : r.length = p.call.n
    · rw [receive_reply p s h]
      rcases checkReply_path p.expect r (loadRx r p.call.n (enter .check s)) with h' | h'
      · exact .inr (.inr (by simp [h']))
      · exact .inr (.inl (by simp [h']))
    · rw [receive_wrongLength p s h]; exact .inr (.inl (by simp))

@[simp] theorem receive_cfg (p : Pending) (a : Option (List Byte)) (s : State) : (receive p a s).cfg = s.cfg := by
  cases a with
  | none => rfl
  | some r => simp only [receive]; split <;> simp

@[simp] theorem receive_cmdPort (p : Pending) (a : Option (List Byte)) (s : State) : (receive p a s).cmdPort = s.cmdPort := by
  cases a with
  | none => rfl
  | some r => simp only [receive]; split <;> simp

@[simp] theorem receive_schedule (p : Pending) (a : Option (List Byte)) (s : State) : (receive p a s).schedule = s.schedule := by
  cases a with
  | none => rfl
  | some r => simp only [receive]; split <;> simp

@[simp] theorem receive_turns (p : Pending) (a : Option (List Byte)) (s : State) : (receive p a s).turns = s.turns := by
  cases a with
  | none => rfl
  | some r => simp only [receive]; split <;> simp

@[simp] theorem receive_dev (p : Pending) (a : Option (List Byte)) (s : State) : (receive p a s).dev = s.dev := by
  cases a with
  | none => rfl
  | some r => simp only [receive]; split <;> simp

@[simp] theorem receive_calls (p : Pending) (a : Option (List Byte)) (s : State) : (receive p a s).calls = s.calls := by
  cases a with
  | none => rfl
  | some r => simp only [receive]; split <;> simp

@[simp] theorem receive_pending (p : Pending) (a : Option (List Byte)) (s : State) : (receive p a s).pending = s.pending := by
  cases a with
  | none => rfl
  | some r => simp only [receive]; split <;> simp

@[simp] theorem receive_busHeld (p : Pending) (a : Option (List Byte)) (s : State) : (receive p a s).busHeld = s.busHeld := by
  cases a with
  | none => rfl
  | some r => simp only [receive]; split <;> simp

@[simp] theorem receive_txbuf (p : Pending) (a : Option (List Byte)) (s : State) : (receive p a s).txbuf = s.txbuf := by
  cases a with
  | none => rfl
  | some r => simp only [receive]; split <;> simp

theorem receive_bitCnt (p : Pending) (a : Option (List Byte)) (s : State) (h : s.bitCnt = 0) :
    (receive p a s).bitCnt = 0 := by
  cases a with
  | none => exact h
  | some r =>
    simp only [receive]; split
    · exact checkReply_bitCnt _ _ _ h
    · exact h

/-- `RXBUF` and `RXLEN` hold the reply exactly when it had the expected length (R232). -/
theorem receive_rx (p : Pending) (a : Option (List Byte)) (s : State) :
    ((receive p a s).rxbuf = s.rxbuf ∧ (receive p a s).rxlen = s.rxlen) ∨
      ∃ r, a = some r ∧ r.length = p.call.n ∧ (receive p a s).rxbuf = r ∧ (receive p a s).rxlen = p.call.n := by
  cases a with
  | none => exact .inl ⟨rfl, rfl⟩
  | some r =>
    by_cases h : r.length = p.call.n
    · rw [receive_reply p s h]; exact .inr ⟨r, rfl, h, by simp, by simp⟩
    · rw [receive_wrongLength p s h]; exact .inl ⟨rfl, rfl⟩

/-! ### `await` and `transact` -/

theorem await_nil (p : Pending) {s : State} (h : s.turns = []) : await p s = s := by simp [await, h]

theorem await_cons (p : Pending) {s : State} {t : Turn} {ts : List Turn} (h : s.turns = t :: ts) :
    await p s = receive p (answerTurn s.cfg s.dev p.call t).1
      (endCall ts (answerTurn s.cfg s.dev p.call t).2 s) := by
  simp [await, h]

theorem transact_eq (p : Pending) (s : State) : transact p s = await p (startCall p s) := rfl

/-- With no answer at hand, the command waits in TRANSACT with its one call made and the bus held (R55, R336). -/
theorem transact_nil (p : Pending) {s : State} (h : s.turns = []) : transact p s = startCall p s :=
  await_nil p h

theorem transact_cons (p : Pending) {s : State} {t : Turn} {ts : List Turn} (h : s.turns = t :: ts) :
    transact p s = receive p (answerTurn s.cfg s.dev p.call t).1
      (endCall ts (answerTurn s.cfg s.dev p.call t).2 (startCall p s)) :=
  await_cons p h

end Sys2Proof.Machine
end

