-- ==== Sys2Proof/Laws/Exec.lean ====
section
/-! SUPPORT. Once for all instructions: what `exec` can answer. An operation is refused, or ends at once, or makes one
transaction; never a fault. -/

namespace Sys2Proof.Machine

/-- A state in which a command has been accepted and has, at most, used the Checksum Engine and `TXBUF`: everything
else is as in `s`, and nothing has been called yet. -/
structure Ready (s s' : State) : Prop where
  res : s'.res = none
  pending : s'.pending = none
  busHeld : s'.busHeld = false
  calls : s'.calls = []
  cfg : s'.cfg = s.cfg
  cmdPort : s'.cmdPort = s.cmdPort
  schedule : s'.schedule = s.schedule
  turns : s'.turns = s.turns
  dev : s'.dev = s.dev
  rxbuf : s'.rxbuf = s.rxbuf
  rxlen : s'.rxlen = s.rxlen
  bitCnt : s.bitCnt = 0 → s'.bitCnt = 0

/-- The operation ends at once with `r`: no call (the primitives, and a failed validation). -/
def EndsAtOnce (s : State) (r : Res) (o : Host.Outcome State Fault Refusal) : Prop :=
  ∃ s', Ready s s' ∧ s'.txbuf = s.txbuf ∧ (s'.path = [] ∨ s'.path = [.validate]) ∧ o = .next (complete r s')

/-- The operation makes the transaction `p`. -/
def MakesCall (s : State) (p : Pending) (o : Host.Outcome State Fault Refusal) : Prop :=
  ∃ s', Ready s s' ∧ s'.path = [.validate, .build] ∧
    ((p.call.addr = Config.periphAddr ∧ p.call.wbytes = s'.txbuf.bytes) ∨ p.call.addr = Config.bulkAddr) ∧
    (20 ≤ s.cfg.rxbufDepth → p.call.n ≤ s.cfg.rxbufDepth) ∧ o = .next (transact p s')

/-- The transaction of a framed operation. -/
def framedCall (q : Request) (n : Nat) (x : Expect) : Pending :=
  { call := { addr := Config.periphAddr, wbytes := q.bytes, n := n }, expect := x }

theorem framed_eq (q : Request) (n : Nat) (x : Expect) (s : State) :
    framed q n x s = transact (framedCall q n x) (loadTx q (enter .build s)) := rfl

theorem ready_framed (q : Request) (s : State) : Ready s (loadTx q (enter .build (enter .validate (accept s)))) := by
  constructor <;> simp

theorem framed_makesCall {q : Request} {n : Nat} {x : Expect} {s : State}
    (h : 20 ≤ s.cfg.rxbufDepth → n ≤ s.cfg.rxbufDepth) :
    MakesCall s (framedCall q n x) (.next (framed q n x (enter .validate (accept s)))) :=
  ⟨_, ready_framed q s, by simp, .inl ⟨rfl, rfl⟩, h, rfl⟩

theorem regRead_cases (r : RegName) (s : State) :
    (∃ x, regRead r s = .refused x) ∨
      MakesCall s
        (framedCall (buildRead (s.cfg.row r).address (s.cfg.row r).wordCount) (replyLen (s.cfg.row r).wordCount)
          (.frame (s.cfg.row r).kind))
        (regRead r s) := by
  by_cases h₁ : s.cfg.rowOk r = false
  · exact .inl ⟨.mapEntryInvalid, by simp [regRead, h₁]⟩
  · by_cases h₂ : s.cfg.rxbufDepth < replyLen (s.cfg.row r).wordCount
    · exact .inl ⟨.replyTooLong, by simp [regRead, Config.entry, h₁, h₂]⟩
    · have h : regRead r s = .next (framed (buildRead (s.cfg.row r).address (s.cfg.row r).wordCount)
          (replyLen (s.cfg.row r).wordCount) (.frame (s.cfg.row r).kind) (enter .validate (accept s))) := by
        simp [regRead, Config.entry, h₁, h₂]
      rw [h]
      exact .inr (framed_makesCall fun _ => by omega)

theorem regWrite_cases (r : RegName) (w : Word) (s : State) :
    (∃ x, regWrite r w (enter .validate (accept s)) = .refused x) ∨
      MakesCall s (framedCall (buildWrite (s.cfg.row r).address w) Config.reqLen .echo)
        (regWrite r w (enter .validate (accept s))) := by
  unfold regWrite
  split
  · exact .inl ⟨_, rfl⟩
  · exact .inr (framed_makesCall fun h => by simp [Config.reqLen]; omega)

theorem writeValue_cases (r : RegName) (v : BitVec 32) (s : State) :
    (∃ x, writeValue r v s = .refused x) ∨
      ∃ w, MakesCall s (framedCall (buildWrite (s.cfg.row r).address w) Config.reqLen .echo) (writeValue r v s) := by
  unfold writeValue
  split
  · exact .inl ⟨_, rfl⟩
  · rename_i w _
    exact (regWrite_cases r w s).imp_right fun h => ⟨w, h⟩

theorem endsAtOnce_accept (s : State) (r : Res) : EndsAtOnce s r (.next (complete r (accept s))) :=
  ⟨accept s, by constructor <;> simp, rfl, .inl rfl, rfl⟩

theorem endsAtOnce_engine (s : State) (p : List Byte) (r : Res) :
    EndsAtOnce s r (.next (complete r (runEngine p (accept s)))) :=
  ⟨runEngine p (accept s), by constructor <;> simp, rfl, .inl rfl, rfl⟩

theorem endsAtOnce_validate (s : State) (f : Failure) :
    EndsAtOnce s (.err f) (.next (raise f (enter .validate (accept s)))) :=
  ⟨enter .validate (accept s), by constructor <;> simp, rfl, .inr rfl, rfl⟩

theorem buildOnly_endsAtOnce (q : Request) (s : State) : EndsAtOnce s (.ok (.frame q.bytes)) (.next (buildOnly q s)) :=
  endsAtOnce_engine s q.body _

theorem validatedWrite_cases (r : RegName) (f : Failure) (b : Bool) (v : BitVec 32) (s : State) :
    (∃ x, validatedWrite r f b v s = .refused x) ∨ EndsAtOnce s (.err f) (validatedWrite r f b v s) ∨
      MakesCall s (framedCall (buildWrite (s.cfg.row r).address (narrow16 v)) Config.reqLen .echo)
        (validatedWrite r f b v s) := by
  cases b
  · exact .inr (.inl (endsAtOnce_validate s f))
  · exact (regWrite_cases r (narrow16 v) s).imp_right .inr

/-! ### The wire frames -/

/-- A read frame of no register's read goes to the builder (log 15). -/
theorem execRqR_none {addr count : Word} (crc : Word) {s : State} (h0 : count ≠ 0#16)
    (h : readAt s.cfg addr count = none) : execRqR addr count crc s = .next (buildOnly (buildRead addr count) s) := by
  simp [execRqR, h0, h]

/-- A read frame is the read of the register it names (log 15). -/
theorem execRqR_some {addr count : Word} (crc : Word) {s : State} {r : RegName} (h0 : count ≠ 0#16)
    (h : readAt s.cfg addr count = some r) : execRqR addr count crc s = regRead r s := by
  simp [execRqR, h0, h]

/-- What a write frame is: a validated write, a write of the register it names, or the builder (log 15). -/
theorem execRqW_cases (addr value crc : Word) (s : State) :
    (writeAt s.cfg addr value = some .interval ∧ execRqW addr value crc s =
      validatedWrite .interval .invalidIntervalInput (intervalInRange (value.setWidth 32)) (value.setWidth 32) s) ∨
    (writeAt s.cfg addr value = some .filter ∧ execRqW addr value crc s =
      validatedWrite .filter .invalidFilterInput (filterInRange (value.setWidth 32)) (value.setWidth 32) s) ∨
    (∃ r, writeAt s.cfg addr value = some r ∧ r ≠ .interval ∧ r ≠ .filter ∧
      execRqW addr value crc s = regWrite r value (enter .validate (accept s))) ∨
    (writeAt s.cfg addr value = none ∧ execRqW addr value crc s = .next (buildOnly (buildWrite addr value) s)) := by
  cases h : writeAt s.cfg addr value with
  | none => exact .inr (.inr (.inr ⟨rfl, by simp [execRqW, h]⟩))
  | some r =>
    by_cases hi : r = .interval
    · subst hi; exact .inl ⟨rfl, by simp [execRqW, h]⟩
    · by_cases hf : r = .filter
      · subst hf; exact .inr (.inl ⟨rfl, by simp [execRqW, h]⟩)
      · exact .inr (.inr (.inl ⟨r, rfl, hi, hf, by cases r <;> simp_all [execRqW]⟩))

/-- What any instruction can answer. -/
theorem exec_cases (i : Instr) (s : State) :
    (∃ x, exec i s = .refused x) ∨ (∃ r, EndsAtOnce s r (exec i s)) ∨ (∃ p, MakesCall s p (exec i s)) := by
  cases i with
  | crc16 buf => exact .inr (.inl ⟨_, endsAtOnce_engine s buf _⟩)
  | fdec b0 b1 b2 b3 => exact .inr (.inl ⟨_, endsAtOnce_accept s _⟩)
  | bldrd a b =>
    show (∃ x, execBldrd a b s = _) ∨ (∃ r, EndsAtOnce s r (execBldrd a b s)) ∨ ∃ p, MakesCall s p (execBldrd a b s)
    unfold execBldrd
    split
    · exact .inl ⟨_, rfl⟩
    · exact .inr (.inl ⟨_, endsAtOnce_engine s _ _⟩)
  | prsrd buf n =>
    show (∃ x, execPrsrd buf n s = _) ∨ (∃ r, EndsAtOnce s r (execPrsrd buf n s)) ∨ ∃ p, MakesCall s p (execPrsrd buf n s)
    unfold execPrsrd
    split
    · exact .inl ⟨_, rfl⟩
    · simp only; split
      · exact .inr (.inl ⟨_, endsAtOnce_engine s _ _⟩)
      · exact .inr (.inl ⟨_, endsAtOnce_engine s _ _⟩)
  | bldwr a vh vl => exact .inr (.inl ⟨_, endsAtOnce_engine s _ _⟩)
  | prswr buf buf2 =>
    show (∃ x, execPrswr buf buf2 s = _) ∨ (∃ r, EndsAtOnce s r (execPrswr buf buf2 s)) ∨
      ∃ p, MakesCall s p (execPrswr buf buf2 s)
    unfold execPrswr
    split
    · exact .inr (.inl ⟨_, endsAtOnce_accept s _⟩)
    · exact .inr (.inl ⟨_, endsAtOnce_accept s _⟩)
  | lookup r => exact .inr (.inl ⟨_, endsAtOnce_accept s _⟩)
  | rdregTempC => exact (regRead_cases .tempC s).imp_right fun h => .inr ⟨_, h⟩
  | rdregTempU1 => exact (regRead_cases .tempU1 s).imp_right fun h => .inr ⟨_, h⟩
  | rdregTempU2 => exact (regRead_cases .tempU2 s).imp_right fun h => .inr ⟨_, h⟩
  | rdregCo2V0 => exact (regRead_cases .co2V0 s).imp_right fun h => .inr ⟨_, h⟩
  | rdregCo2V1 => exact (regRead_cases .co2V1 s).imp_right fun h => .inr ⟨_, h⟩
  | rdregCo2V2 => exact (regRead_cases .co2V2 s).imp_right fun h => .inr ⟨_, h⟩
  | rdregCo2RawNpc => exact (regRead_cases .co2RawNpc s).imp_right fun h => .inr ⟨_, h⟩
  | rdregPresU0 => exact (regRead_cases .presU0 s).imp_right fun h => .inr ⟨_, h⟩
  | rdregPresU1 => exact (regRead_cases .presU1 s).imp_right fun h => .inr ⟨_, h⟩
  | rdregInterval => exact (regRead_cases .interval s).imp_right fun h => .inr ⟨_, h⟩
  | rdregFilter => exact (regRead_cases .filter s).imp_right fun h => .inr ⟨_, h⟩
  | rdregOffset => exact (regRead_cases .offset s).imp_right fun h => .inr ⟨_, h⟩
  | rdregCust1 => exact (regRead_cases .cust1 s).imp_right fun h => .inr ⟨_, h⟩
  | rdregCust2 => exact (regRead_cases .cust2 s).imp_right fun h => .inr ⟨_, h⟩
  | rdregFwVersion => exact (regRead_cases .fwVersion s).imp_right fun h => .inr ⟨_, h⟩
  | rdregSerial => exact (regRead_cases .serial s).imp_right fun h => .inr ⟨_, h⟩
  | rdregName => exact (regRead_cases .name s).imp_right fun h => .inr ⟨_, h⟩
  | rdregMode => exact (regRead_cases .mode s).imp_right fun h => .inr ⟨_, h⟩
  | rdregStatus => exact (regRead_cases .status s).imp_right fun h => .inr ⟨_, h⟩
  | rdregDetailedStatus => exact (regRead_cases .detailedStatus s).imp_right fun h => .inr ⟨_, h⟩
  | wrregInterval v =>
    show (∃ x, execWrregInterval v s = _) ∨ (∃ r, EndsAtOnce s r (execWrregInterval v s)) ∨
      ∃ p, MakesCall s p (execWrregInterval v s)
    exact (validatedWrite_cases .interval _ _ v s).imp_right (Or.imp (⟨_, ·⟩) (⟨_, ·⟩))
  | wrregFilter v =>
    show (∃ x, execWrregFilter v s = _) ∨ (∃ r, EndsAtOnce s r (execWrregFilter v s)) ∨
      ∃ p, MakesCall s p (execWrregFilter v s)
    exact (validatedWrite_cases .filter _ _ v s).imp_right (Or.imp (⟨_, ·⟩) (⟨_, ·⟩))
  | wrregOffset v => exact (writeValue_cases .offset v s).imp_right fun ⟨_, h⟩ => .inr ⟨_, h⟩
  | wrregCust1 v => exact (writeValue_cases .cust1 v s).imp_right fun ⟨_, h⟩ => .inr ⟨_, h⟩
  | wrregCust2 v => exact (writeValue_cases .cust2 v s).imp_right fun ⟨_, h⟩ => .inr ⟨_, h⟩
  | wrregMode v =>
    show (∃ x, execWrregMode v s = _) ∨ (∃ r, EndsAtOnce s r (execWrregMode v s)) ∨
      ∃ p, MakesCall s p (execWrregMode v s)
    unfold execWrregMode
    simp only; split
    · exact (regWrite_cases .mode _ s).imp_right fun h => .inr ⟨_, h⟩
    · split
      · exact (regWrite_cases .mode _ s).imp_right fun h => .inr ⟨_, h⟩
      · exact .inl ⟨_, rfl⟩
  | wrregTrigger => exact (regWrite_cases .trigger _ s).imp_right fun h => .inr ⟨_, h⟩
  | getall =>
    refine .inr (.inr ⟨_, enter .build (enter .validate (accept s)), ?_, by simp, .inr rfl, ?_, rfl⟩)
    · constructor <;> simp
    · intro h; simp [Config.bulkLen]; omega
  | rqR addr count crc =>
    show (∃ x, execRqR addr count crc s = _) ∨ (∃ r, EndsAtOnce s r (execRqR addr count crc s)) ∨
      ∃ p, MakesCall s p (execRqR addr count crc s)
    by_cases h0 : count = 0#16
    · exact .inl ⟨.wordCountZero, by simp [execRqR, h0]⟩
    · cases h : readAt s.cfg addr count with
      | none => rw [execRqR_none crc h0 h]; exact .inr (.inl ⟨_, buildOnly_endsAtOnce _ s⟩)
      | some r => rw [execRqR_some crc h0 h]; exact (regRead_cases r s).imp_right fun h => .inr ⟨_, h⟩
  | rqW addr value crc =>
    show (∃ x, execRqW addr value crc s = _) ∨ (∃ r, EndsAtOnce s r (execRqW addr value crc s)) ∨
      ∃ p, MakesCall s p (execRqW addr value crc s)
    rcases execRqW_cases addr value crc s with ⟨-, h⟩ | ⟨-, h⟩ | ⟨r, -, -, -, h⟩ | ⟨-, h⟩ <;> rw [h]
    · exact (validatedWrite_cases ..).imp_right (Or.imp (⟨_, ·⟩) (⟨_, ·⟩))
    · exact (validatedWrite_cases ..).imp_right (Or.imp (⟨_, ·⟩) (⟨_, ·⟩))
    · exact (regWrite_cases r value s).imp_right fun h => .inr ⟨_, h⟩
    · exact .inr (.inl ⟨_, buildOnly_endsAtOnce _ s⟩)

/-- What an instruction that answers a next state has done. -/
theorem exec_next {i : Instr} {s t : State} (h : exec i s = .next t) :
    (∃ r s', Ready s s' ∧ s'.txbuf = s.txbuf ∧ (s'.path = [] ∨ s'.path = [.validate]) ∧ t = complete r s') ∨
    ∃ p s', Ready s s' ∧ s'.path = [.validate, .build] ∧
      ((p.call.addr = Config.periphAddr ∧ p.call.wbytes = s'.txbuf.bytes) ∨ p.call.addr = Config.bulkAddr) ∧
      (20 ≤ s.cfg.rxbufDepth → p.call.n ≤ s.cfg.rxbufDepth) ∧ t = transact p s' := by
  rcases exec_cases i s with ⟨x, hx⟩ | ⟨r, s', a, b, c, hx⟩ | ⟨p, s', a, b, c, d, hx⟩ <;> rw [hx] at h <;> cases h
  · exact .inl ⟨r, s', a, b, c, rfl⟩
  · exact .inr ⟨p, s', a, b, c, d, rfl⟩

/-- No instruction faults. -/
theorem exec_no_fault (i : Instr) (s : State) (f : Fault) : exec i s ≠ .fault f := by
  rcases exec_cases i s with ⟨x, h⟩ | ⟨r, s', -, -, -, h⟩ | ⟨p, s', -, -, -, -, h⟩ <;> rw [h] <;> simp

end Sys2Proof.Machine
end

