-- ==== Sys2Proof/Laws/PerInstr.lean ====
section
/-! SUPPORT. Statements made per instruction. `RoundTrip`: decoding what the encoder presents gives the instruction
back, with every operand at every value. -/

namespace Sys2Proof.Laws.RoundTrip

/-- Decoding the encoded instruction gives it back. -/
def Statement (i : Instr) : Prop := i.wellFormed = true → decode (encode i) = .ok i

theorem crc16 (buf : List Byte) : Statement (.crc16 buf) := fun _ => rfl
theorem fdec (b0 b1 b2 b3 : Byte) : Statement (.fdec b0 b1 b2 b3) := fun _ => rfl
theorem bldrd (a b : Word) : Statement (.bldrd a b) := fun _ => rfl
theorem prsrd (buf : List Byte) (n : Nat) : Statement (.prsrd buf n) := fun _ => rfl
theorem bldwr (a : Word) (vh vl : Byte) : Statement (.bldwr a vh vl) := fun _ => rfl
theorem prswr (buf buf2 : List Byte) : Statement (.prswr buf buf2) := fun _ => rfl
theorem lookup (r : RegName) : Statement (.lookup r) := fun _ => by cases r <;> rfl
theorem rdregTempC : Statement .rdregTempC := fun _ => rfl
theorem rdregTempU1 : Statement .rdregTempU1 := fun _ => rfl
theorem rdregTempU2 : Statement .rdregTempU2 := fun _ => rfl
theorem rdregCo2V0 : Statement .rdregCo2V0 := fun _ => rfl
theorem rdregCo2V1 : Statement .rdregCo2V1 := fun _ => rfl
theorem rdregCo2V2 : Statement .rdregCo2V2 := fun _ => rfl
theorem rdregCo2RawNpc : Statement .rdregCo2RawNpc := fun _ => rfl
theorem rdregPresU0 : Statement .rdregPresU0 := fun _ => rfl
theorem rdregPresU1 : Statement .rdregPresU1 := fun _ => rfl
theorem rdregInterval : Statement .rdregInterval := fun _ => rfl
theorem rdregFilter : Statement .rdregFilter := fun _ => rfl
theorem rdregOffset : Statement .rdregOffset := fun _ => rfl
theorem rdregCust1 : Statement .rdregCust1 := fun _ => rfl
theorem rdregCust2 : Statement .rdregCust2 := fun _ => rfl
theorem rdregFwVersion : Statement .rdregFwVersion := fun _ => rfl
theorem rdregSerial : Statement .rdregSerial := fun _ => rfl
theorem rdregName : Statement .rdregName := fun _ => rfl
theorem rdregMode : Statement .rdregMode := fun _ => rfl
theorem rdregStatus : Statement .rdregStatus := fun _ => rfl
theorem rdregDetailedStatus : Statement .rdregDetailedStatus := fun _ => rfl
theorem wrregInterval (v : BitVec 32) : Statement (.wrregInterval v) := fun _ => rfl
theorem wrregFilter (v : BitVec 32) : Statement (.wrregFilter v) := fun _ => rfl
theorem wrregOffset (v : BitVec 32) : Statement (.wrregOffset v) := fun _ => rfl
theorem wrregCust1 (v : BitVec 32) : Statement (.wrregCust1 v) := fun _ => rfl
theorem wrregCust2 (v : BitVec 32) : Statement (.wrregCust2 v) := fun _ => rfl
theorem wrregMode (v : BitVec 32) : Statement (.wrregMode v) := fun _ => rfl
theorem wrregTrigger : Statement .wrregTrigger := fun _ => rfl
theorem getall : Statement .getall := fun _ => rfl
theorem rqR (addr count crc : Word) : Statement (.rqR addr count crc) := fun _ => decodeWire_read addr count crc
theorem rqW (addr value crc : Word) : Statement (.rqW addr value crc) := fun _ => decodeWire_write addr value crc

end Sys2Proof.Laws.RoundTrip
end

