-- ==== Sys2Proof/Laws/Run.lean ====
section
/-! SUPPORT. What a transaction that is answered leaves behind, in the terms of the statements; and the sequences of
the client operations under a configuration that meets its constraints. -/

namespace Sys2Proof.Machine

open Sys2Proof.Safety

/-! ### Results -/

theorem payload_eq (f : List Byte) (n : Nat) : payload f n = (f.take (n - 2)).drop 2 := by
  rw [payload, List.drop_take, show n - 4 = n - 2 - 2 by omega]

theorem readResult_eq (p : Pending) (kind : DecodeKind) (h : p.expect = .frame kind) (a : Option (List Byte))
    (q : Request) (l : BulkLayout) : answeredResult p a q l = readResult p.call.n kind a := by
  cases a with
  | none => rfl
  | some f =>
    by_cases hl : f.length = p.call.n
    · simp only [answeredResult, readResult, hl, if_true, checkedResult, h, parseRead, payload_eq, replyBody, receivedCrc,
        decCrc, ne_eq, not_true_eq_false, if_false, ite_not]
      split <;> rename_i hc <;> split at hc <;> simp_all
    · simp [answeredResult, readResult, hl]

theorem writeResult_eq (p : Pending) (h : p.expect = .echo) (hn : p.call.n = 7) (a : Option (List Byte))
    (q : Request) (l : BulkLayout) : answeredResult p a q l = writeResult q.bytes a := by
  cases a with
  | none => rfl
  | some f => by_cases hl : f.length = 7 <;> simp [answeredResult, writeResult, checkedResult, h, hn, hl]

theorem bulkResult_eq (p : Pending) (h : p.expect = .bulk) (hn : p.call.n = 8) (a : Option (List Byte))
    (q : Request) (l : BulkLayout) : answeredResult p a q l = bulkResult l a := by
  cases a with
  | none => rfl
  | some f => by_cases hl : f.length = 8 <;> simp [answeredResult, bulkResult, checkedResult, h, hn, hl]

/-! ### The answered transaction -/

/-- A transaction made from `s'`, a state in which the command of `s` has been prepared, with an answer at hand. -/
theorem transact_oneTransaction {s s' : State} {p : Pending} (h : Ready s s') (ht : s.turns ≠ []) :
    OneTransaction p.call (answeredResult p (answerOf s p.call) s'.txbuf s.cfg.bulkLayout) s (transact p s') := by
  obtain ⟨t, ts, hts⟩ := List.exists_cons_of_ne_nil ht
  have ht' : s'.turns = t :: ts := h.turns.trans hts
  have ha : answerOf s p.call = (answerTurn s'.cfg s'.dev p.call t).1 := by simp [answerOf, hts, h.cfg, h.dev]
  have hd : deviceAfter s p.call = (answerTurn s'.cfg s'.dev p.call t).2 := by simp [deviceAfter, hts, h.cfg, h.dev]
  rw [transact_cons p ht', ha]
  refine ⟨⟨receive_phase .., ?_, by simp, by simp⟩, by simp [h.calls], by simp [hts], by simp [hd], ⟨?_, ?_, ?_⟩, ?_⟩
  · rw [receive_res]; simp [h.cfg]
  · simp [h.cfg]
  · simp [h.cmdPort]
  · simp [h.schedule]
  · rw [ha]
    have hr := receive_rx p (answerTurn s'.cfg s'.dev p.call t).1
      (endCall ts (answerTurn s'.cfg s'.dev p.call t).2 (startCall p s'))
    revert hr
    cases (answerTurn s'.cfg s'.dev p.call t).1 with
    | none => rintro (⟨h1, h2⟩ | ⟨r, h1, -⟩) <;> simp_all [BuffersReply, h.rxbuf, h.rxlen]
    | some f =>
      intro hr
      simp only [BuffersReply]
      split
      · rename_i hl; rw [receive_reply p _ hl]; simp
      · rename_i hl; rw [receive_wrongLength p _ hl]; simp [h.rxbuf, h.rxlen]

@[simp] theorem transact_txbuf (p : Pending) (s : State) : (transact p s).txbuf = s.txbuf := by
  cases h : s.turns with
  | nil => rw [transact_nil p h]; rfl
  | cons t ts => rw [transact_cons p h]; simp

@[simp] theorem transact_cfg (p : Pending) (s : State) : (transact p s).cfg = s.cfg := by
  cases h : s.turns with
  | nil => rw [transact_nil p h]; rfl
  | cons t ts => rw [transact_cons p h]; simp

@[simp] theorem transact_cmdPort (p : Pending) (s : State) : (transact p s).cmdPort = s.cmdPort := by
  cases h : s.turns with
  | nil => rw [transact_nil p h]; rfl
  | cons t ts => rw [transact_cons p h]; simp

@[simp] theorem transact_schedule (p : Pending) (s : State) : (transact p s).schedule = s.schedule := by
  cases h : s.turns with
  | nil => rw [transact_nil p h]; rfl
  | cons t ts => rw [transact_cons p h]; simp

@[simp] theorem transact_calls (p : Pending) (s : State) : (transact p s).calls = s.calls ++ [p.call] := by
  cases h : s.turns with
  | nil => rw [transact_nil p h]; rfl
  | cons t ts => rw [transact_cons p h]; simp

theorem transact_dev (p : Pending) (s : State) : (transact p s).dev = deviceAfter s p.call := by
  cases h : s.turns with
  | nil => rw [transact_nil p h]; simp [deviceAfter, h]
  | cons t ts => rw [transact_cons p h]; simp [deviceAfter, h]

/-! ### A conforming configuration -/

theorem rowOk_of_conforming {c : Config} (h : c.Conforming) (r : RegName) : c.rowOk r = true :=
  h.1 r (by cases r <;> decide)

/-- Distinct names have distinct addresses (R198). -/
theorem address_ne {c : Config} (h : c.Conforming) {r q : RegName} (hn : r ≠ q) :
    (c.row r).address ≠ (c.row q).address :=
  fun e => hn (h.2.2.2.2.2.2.2.1 r (by cases r <;> decide) q (by cases q <;> decide) e)

/-- The register mapped at a register's address is that register (R198). -/
theorem nameAt_row {c : Config} (h : c.Conforming) (r : RegName) : nameAt c (c.row r).address = some r := by
  cases hf : nameAt c (c.row r).address with
  | none => simpa using List.find?_eq_none.1 hf r (by cases r <;> decide)
  | some q =>
    have hq : (c.row q).address = (c.row r).address := by simpa using List.find?_some hf
    rw [Classical.byContradiction fun hn => address_ne h (fun e => hn e) hq]

theorem nameAt_address {c : Config} {a : Word} {r : RegName} (h : nameAt c a = some r) : (c.row r).address = a := by
  simpa using List.find?_some h

theorem depth_of_conforming {c : Config} (h : c.Conforming) : 20 ≤ c.rxbufDepth := h.2.2.2.2.2.2.2.2.2.2.1

theorem regRead_eq {s : State} {r : RegName} (h : s.cfg.Conforming)
    (hd : replyLen (s.cfg.row r).wordCount ≤ s.cfg.rxbufDepth) :
    regRead r s = .next (framed (buildRead (s.cfg.row r).address (s.cfg.row r).wordCount)
      (replyLen (s.cfg.row r).wordCount) (.frame (s.cfg.row r).kind) (enter .validate (accept s))) := by
  simp [regRead, Config.entry, rowOk_of_conforming h r, Nat.not_lt.2 hd]

theorem regRead_refused {s : State} {r : RegName} (h : s.cfg.Conforming)
    (hd : s.cfg.rxbufDepth < replyLen (s.cfg.row r).wordCount) : regRead r s = .refused .replyTooLong := by
  simp [regRead, Config.entry, rowOk_of_conforming h r, hd]

theorem regWrite_eq {s : State} {r : RegName} (h : s.cfg.Conforming) (w : Word) :
    regWrite r w (enter .validate (accept s)) =
      .next (framed (buildWrite (s.cfg.row r).address w) Config.reqLen .echo (enter .validate (accept s))) := by
  simp [regWrite, Config.entry, rowOk_of_conforming h r]

theorem buildRead_bytes (a w : Word) : (buildRead a w).bytes = requestBytes 0x03#8 a w := by
  simp [buildRead, buildRequest, Request.withCrc, Request.bytes, requestBytes, Config.fcRead]

theorem buildWrite_bytes (a w : Word) : (buildWrite a w).bytes = requestBytes 0x06#8 a w := by
  simp [buildWrite, buildRequest, Request.withCrc, Request.bytes, requestBytes, Config.fcWrite]

/-- A frame that the device reads as a request is that request with its right checksum (R80, R81). -/
theorem readRequest_some {f : List Byte} {q : WireRequest} (h : readRequest f = some q) :
    (∃ a n, q = .read a n ∧ f = requestBytes 0x03#8 a n) ∨ ∃ a w, q = .write a w ∧ f = requestBytes 0x06#8 a w := by
  unfold readRequest at h
  split at h
  · rename_i fc ah al x y cl ch
    have hr : Config.fcRead = 0x03#8 := rfl
    have hw : Config.fcWrite = 0x06#8 := rfl
    rw [hr, hw] at h
    split at h
    · rename_i hc
      split at h
      · rename_i hf; subst hf; cases h
        exact .inl ⟨_, _, rfl, by simp [requestBytes, hc, decCrc]⟩
      · split at h
        · rename_i hf; subst hf; cases h
          exact .inr ⟨_, _, rfl, by simp [requestBytes, hc, decCrc]⟩
        · cases h
    · cases h
  · cases h

/-! ### The registers a frame names -/

theorem readAt_row {c : Config} (h : c.Conforming) {r : RegName} (hr : r.readable = true) :
    readAt c (c.row r).address (c.row r).wordCount = some r := by
  simp [readAt, nameAt_row h, hr]

theorem writeAt_row {c : Config} (h : c.Conforming) {r : RegName} {w : Word} (hr : r.writable = true)
    (hw : sendsWord c r w = true) : writeAt c (c.row r).address w = some r := by
  simp [writeAt, nameAt_row h, hr, hw]

/-- Every read is the generic read of its register (R200). -/
theorem exec_read {i : Instr} {r : RegName} (h : (i, r) ∈ readOps) (s : State) : exec i s = regRead r s := by
  have table : ∀ p ∈ readOps, exec p.1 s = regRead p.2 s := by
    simp only [readOps, List.forall_mem_cons]
    and_intros <;> first | rfl | exact fun _ hp => nomatch hp
  exact table (i, r) h

end Sys2Proof.Machine
end

