-- ==== Sys2Proof/Tests/Slice0.lean ====
section
/-! SUPPORT. The model's own tests, expected values from 95_test_vectors.md, and a witness for every statement that has
hypotheses. -/

namespace Sys2Proof.Tests

-- One declaration after the other: the kernel evaluations below would each hold a thread of their own.
set_option Elab.async false

open Sys2Proof.Machine Sys2Proof.Safety

/-! ### Helpers -/

/-- After reset, the transport about to answer the next call with `answer`. -/
def answering (answer : Option (List Byte)) : State :=
  { State.reset with turns := [.scripted answer true {}] }

/-- The same over another configuration. -/
def answeringOver (c : Config) (answer : Option (List Byte)) : State := { answering answer with cfg := c }

/-- After reset, the device in SingleShot mode, settled, trigger ready. -/
def triggerable : Device := { Device.reset with mode := .singleShot, trigReady := true, settled := true }

def resultOf : Host.Outcome State Fault Refusal → Option Res
  | .next s => s.res
  | _ => none

def refusalOf : Host.Outcome State Fault Refusal → Option Refusal
  | .refused r => some r
  | _ => none

def callsOf : Host.Outcome State Fault Refusal → List Call
  | .next s => s.calls
  | _ => []

def deviceOf : Host.Outcome State Fault Refusal → Option Device
  | .next s => some s.dev
  | _ => none

/-- Result and frames sent, the transport echoing `f`. -/
def echoed (i : Instr) (f : List Byte) : Option Res × List Call :=
  (resultOf (exec i (answering (some f))), callsOf (exec i (answering (some f))))

/-- `candidate` with the bulk layout written out. -/
def withLayout : Config := { Config.candidate with bulkLayout := Config.candidateBulkLayout }

/-- A conforming configuration whose firmware version is too long for `RXBUF`. -/
def longVersion : Config :=
  { Config.candidate with regmap := { Config.candidateMap with fwVersion := ⟨8#16, 9#16, .byteBlob⟩ } }

/-! ### WellFormed: one ill-formed term per check -/

theorem test_illFormed_bldrd_zero_words : Instr.wellFormed (.bldrd 0x1234#16 0#16) = false := by decide
theorem test_illFormed_prsrd_length : Instr.wellFormed (.prsrd [0#8, 0#8, 0#8, 0#8, 0#8, 0#8] 8) = false := by decide
theorem test_illFormed_prsrd_short : Instr.wellFormed (.prsrd [0x03#8, 0x04#8, 0xFF#8, 0x78#8] 4) = false := by decide
theorem test_illFormed_prsrd_odd :
    Instr.wellFormed (.prsrd [0#8, 0#8, 0#8, 0#8, 0#8, 0#8, 0#8] 7) = false := by decide
theorem test_illFormed_offset_above : Instr.wellFormed (.wrregOffset 65536#32) = false := by decide
theorem test_illFormed_cust1_below : Instr.wellFormed (.wrregCust1 (BitVec.ofInt 32 (-32769))) = false := by decide
theorem test_illFormed_cust2_above : Instr.wellFormed (.wrregCust2 65536#32) = false := by decide
theorem test_illFormed_mode : Instr.wellFormed (.wrregMode 2#32) = false := by decide
theorem test_illFormed_rqR_zero_words : Instr.wellFormed (.rqR 0x03EA#16 0#16 0#16) = false := by decide
theorem test_wellFormed_bounds :
    Instr.wellFormed (.wrregOffset (BitVec.ofInt 32 (-32768))) = true ∧ Instr.wellFormed (.wrregCust1 65535#32) = true ∧
      Instr.wellFormed (.prsrd [0#8, 0#8, 0#8, 0#8, 0#8, 0#8] 6) = true ∧
      Instr.wellFormed (.wrregInterval 99#32) = true := by decide

/-! ### Decoding: words from R80, R81, R100 and R190 -/

/-- Selectors 0x01xx to 0x07xx: the primitives; the `regid` byte is ignored for all but LOOKUP. -/
theorem test_decode_primitives :
    [0x0100, 0x01FF, 0x0200, 0x0300, 0x0400, 0x0500, 0x0600, 0x0700, 0x0714].map (decodeTableWord 16) =
      [some (.crc16 []), some (.crc16 []), some (.fdec 0#8 0#8 0#8 0#8), some (.bldrd 0#16 0#16), some (.prsrd [] 0),
        some (.bldwr 0#16 0#8 0#8), some (.prswr [] []), some (.lookup .tempC), some (.lookup .trigger)] := by
  decide +kernel

theorem test_decode_reads_low :
    [0x1000, 0x1001, 0x1002, 0x1003, 0x1004, 0x1005, 0x1006, 0x1007, 0x1008, 0x1009].map (decodeTableWord 16) =
      [some .rdregTempC, some .rdregTempU1, some .rdregTempU2, some .rdregCo2V0, some .rdregCo2V1, some .rdregCo2V2,
        some .rdregCo2RawNpc, some .rdregPresU0, some .rdregPresU1, some .rdregInterval] := by decide +kernel

theorem test_decode_reads_high :
    [0x100A, 0x100B, 0x100C, 0x100D, 0x100E, 0x100F, 0x1010, 0x1011, 0x1012, 0x1013].map (decodeTableWord 16) =
      [some .rdregFilter, some .rdregOffset, some .rdregCust1, some .rdregCust2, some .rdregFwVersion,
        some .rdregSerial, some .rdregName, some .rdregMode, some .rdregStatus, some .rdregDetailedStatus] := by
  decide +kernel

theorem test_decode_writes :
    [0x1109, 0x110A, 0x110B, 0x110C, 0x110D, 0x1111, 0x1114, 0x1200].map (decodeTableWord 16) =
      [some (.wrregInterval 0#32), some (.wrregFilter 0#32), some (.wrregOffset 0#32), some (.wrregCust1 0#32),
        some (.wrregCust2 0#32), some (.wrregMode 0#32), some .wrregTrigger, some .getall] := by decide +kernel

/-- V50 and the worked example of R172 as frames, byte 0 in bits 55:48 (R101). -/
theorem test_decode_wire :
    decodeTableWord 56 0x0303EA0002E8C5 = some (.rqR 0x03EA#16 2#16 0xC5E8#16) ∧
      decodeTableWord 56 0x061450006480BE = some (.rqW 0x1450#16 100#16 0xBE80#16) ∧
      decodeTableWord 56 0x03000000000000 = some (.rqR 0#16 0#16 0#16) ∧
      decodeTableWord 56 0x05000000000000 = none := by decide +kernel

/-- V91 to V94 and the selectors of no row (R104). -/
theorem test_decode_refused :
    decodeTableWord 16 0x0000 = none ∧ decodeTableWord 16 0x0800 = none ∧ decodeTableWord 16 0x1300 = none ∧
      decode (.cmd { opc := 0x07#8, regid := 21#8 }) = .error .unknownRegid ∧
      decode (.cmd { opc := 0x10#8, regid := 20#8 }) = .error .notReadable ∧
      decode (.cmd { opc := 0x11#8, regid := 0#8 }) = .error .notWritable ∧
      decode (.cmd { opc := 0x11#8, regid := 18#8 }) = .error .notWritable := by decide +kernel

/-- R104: operand lengths and frames that are no request. -/
theorem test_decode_operand_lengths :
    decode (.cmd { opc := 0x02#8, buf := [0#8, 0#8, 0#8] }) = .error .operandLength ∧
      decode (.cmd { opc := 0x05#8, buf := [0#8] }) = .error .operandLength ∧
      decode (.wire [0x03#8]) = .error .frameLength ∧
      decode (.wire [0x04#8, 0#8, 0#8, 0#8, 0#8, 0#8, 0#8]) = .error .unknownFunctionCode := by decide +kernel

/-- The full record of an operation with operands (R38, R100). -/
theorem test_decode_operands :
    decode (.cmd { opc := 0x03#8, a := 0x03EA#16, b := 2#16 }) = .ok (.bldrd 0x03EA#16 2#16) ∧
      decode (.cmd { opc := 0x05#8, a := 0x1450#16, buf := [0x00#8, 0x64#8] }) = .ok (.bldwr 0x1450#16 0x00#8 0x64#8) ∧
      decode (.cmd { opc := 0x11#8, regid := 11#8, v := BitVec.ofInt 32 (-50) }) =
        .ok (.wrregOffset (BitVec.ofInt 32 (-50))) := by decide +kernel

/-! ### Checksum Engine: V1, V20 to V27 -/

theorem test_crc16_known_vector :
    resultOf (exec (.crc16 [0x03#8, 0x03#8, 0xEA#8, 0x00#8, 0x02#8]) State.reset) = some (.ok (.u16 0xC5E8#16)) := by
  decide +kernel

theorem test_crc16_vectors :
    [[], [0x00#8], [0xFF#8], [0x5F#8], [0x03#8, 0x03#8, 0xEA#8, 0x00#8, 0x02#8, 0xE8#8, 0xC5#8],
      List.replicate 16 0x00#8, [1#8, 2#8, 3#8, 4#8, 5#8, 6#8, 7#8, 8#8, 9#8],
      [0x31#8, 0x32#8, 0x33#8, 0x34#8, 0x35#8, 0x36#8, 0x37#8, 0x38#8, 0x39#8]].map checksum16 =
    [0x78FF#16, 0x4038#16, 0x0078#16, 0x7878#16, 0x0000#16, 0x9279#16, 0x3447#16, 0xCD7E#16] := by decide +kernel

/-- The trace of V1: the engine after the load and the first shifts of the implicit byte, and after it. -/
theorem test_engine_trace :
    ((Engine.run [0x03#8] 1 Engine.start).acc, (Engine.run [0x03#8] 2 Engine.start).acc,
      (Engine.run [0x03#8] 9 Engine.start).acc, (Engine.run [0x03#8] 10 Engine.start).acc,
      (Engine.run [0x03#8] 18 Engine.start).acc) =
    (0xFFA0#16, 0x7FD0#16, 0x78FF#16, 0x78FC#16, 0x4178#16) := by decide +kernel

/-! ### Float Decoder: V2, V3, V12 to V14, V30 to V49 -/

theorem test_fdec_known_vectors :
    resultOf (exec (.fdec 0x00#8 0x00#8 0x3F#8 0x80#8) State.reset) = some (.ok (.f64 0x3FF0000000000000#64)) ∧
      resultOf (exec (.fdec 0x00#8 0x00#8 0xBF#8 0x80#8) State.reset) = some (.ok (.f64 0xBFF0000000000000#64)) := by
  decide +kernel

theorem test_fdec_vectors :
    [floatBits64 0x00#8 0x01#8 0x3F#8 0x80#8, floatBits64 0x00#8 0x03#8 0x3F#8 0x80#8, floatBits64 0x00#8 0x00#8 0x41#8 0xBC#8,
      floatBits64 0x60#8 0x00#8 0x43#8 0xCE#8, floatBits64 0x33#8 0x33#8 0x42#8 0xC5#8, floatBits64 0x00#8 0x00#8 0x00#8 0x00#8,
      floatBits64 0xFF#8 0xFF#8 0x00#8 0x7F#8, floatBits64 0x00#8 0x00#8 0x7F#8 0xC0#8, floatBits64 0xFF#8 0xFF#8 0xFF#8 0xFF#8,
      floatBits64 0x12#8 0x34#8 0x56#8 0x78#8] =
    [0x3FF0000000000000#64, 0x3FF0000040000000#64, 0x4037800000000000#64, 0x4079CC0000000000#64, 0x4058A66640000000#64,
      0x3800000000000000#64, 0x380FFFFFC0000000#64, 0x47F8000000000000#64, 0xC7FFFFFFC0000000#64,
      0x42CF024680000000#64] := by decide +kernel

/-- V30: 23.5, as a value. -/
theorem test_float_value : floatValue 0x00#8 0x00#8 0x41#8 0xBC#8 = 47 / 2 := by decide +kernel

/-! ### Frame Codec: V50 to V71 -/

theorem test_bldrd_vectors :
    [buildRead 0x03EA#16 2#16, buildRead 0#16 1#16, buildRead 0xFFFF#16 0xFFFF#16].map Request.bytes =
      [[0x03#8, 0x03#8, 0xEA#8, 0x00#8, 0x02#8, 0xE8#8, 0xC5#8], [0x03#8, 0x00#8, 0x00#8, 0x00#8, 0x01#8, 0x89#8, 0x74#8],
        [0x03#8, 0xFF#8, 0xFF#8, 0xFF#8, 0xFF#8, 0x49#8, 0x20#8]] ∧
      resultOf (exec (.bldrd 0#16 8#16) State.reset) =
        some (.ok (.frame [0x03#8, 0x00#8, 0x00#8, 0x00#8, 0x08#8, 0x49#8, 0x72#8])) := by decide +kernel

theorem test_bldrd_refused : refusalOf (exec (.bldrd 0x1234#16 0#16) State.reset) = some .wordCountZero := by decide

theorem test_bldwr_vectors :
    resultOf (exec (.bldwr 0x1450#16 0x00#8 0x64#8) State.reset) =
        some (.ok (.frame [0x06#8, 0x14#8, 0x50#8, 0x00#8, 0x64#8, 0x80#8, 0xBE#8])) ∧
      resultOf (exec (.bldwr 0xFFFF#16 0xFF#8 0xFF#8) State.reset) =
        some (.ok (.frame [0x06#8, 0xFF#8, 0xFF#8, 0xFF#8, 0xFF#8, 0x85#8, 0x20#8])) := by decide +kernel

/-- V60, V61, V62, V65. -/
theorem test_prsrd_vectors :
    [[0x03#8, 0x02#8, 0x00#8, 0x96#8, 0x91#8, 0xE7#8],
      [0xAA#8, 0x55#8, 0x00#8, 0x00#8, 0x41#8, 0xBC#8, 0x91#8, 0xE2#8],
      [0x03#8, 0x04#8, 0x00#8, 0x00#8, 0x41#8, 0xBC#8, 0x75#8, 0x17#8],
      [0x03#8, 0x04#8, 0x00#8, 0x00#8, 0x41#8, 0xBC#8, 0x17#8, 0x74#8]].map
        (fun f => resultOf (exec (.prsrd f f.length) State.reset)) =
    [some (.ok (.bytes [0x00#8, 0x96#8])), some (.ok (.bytes [0x00#8, 0x00#8, 0x41#8, 0xBC#8])),
      some (.err .checksumError), some (.err .checksumError)] := by decide +kernel

/-- V67, V68. -/
theorem test_prsrd_refused :
    refusalOf (exec (.prsrd [0x03#8, 0x04#8, 0x00#8, 0x00#8, 0x41#8, 0xBC#8, 0x74#8, 0x17#8] 10) State.reset) =
        some .frameLengthOperand ∧
      refusalOf (exec (.prsrd [0x03#8, 0x04#8, 0xFF#8, 0x78#8] 4) State.reset) = some .frameLengthOperand := by decide

/-- The worked example of R176, V69, V71. -/
theorem test_prswr_vectors :
    [[0x06#8, 0x14#8, 0x50#8, 0x00#8, 0x64#8, 0x80#8, 0xBE#8], [0x06#8, 0x14#8, 0x50#8, 0x00#8, 0x64#8, 0x80#8, 0xBF#8],
      [0x06#8, 0x14#8, 0x50#8, 0x00#8, 0x64#8, 0x80#8]].map
        (fun f => resultOf
          (exec (.prswr [0x06#8, 0x14#8, 0x50#8, 0x00#8, 0x64#8, 0x80#8, 0xBE#8] f) State.reset)) =
    [some (.ok .unit), some (.err .registerWriteMismatch), some (.err .registerWriteMismatch)] := by decide

/-! ### Field decoder and encoder: V72 to V87 -/

theorem test_decodeValue_vectors :
    [decodeValue .rawU16 [0xFF#8, 0xFF#8], decodeValue .rawU16 [0x01#8, 0x05#8], decodeValue .signed16 [0x7F#8, 0xFF#8],
      decodeValue .signed16 [0x80#8, 0x00#8], decodeValue .signed16 [0xFF#8, 0xCE#8]] =
    [.u16 65535#16, .u16 261#16, .s16 32767, .s16 (-32768), .s16 (-50)] := by decide +kernel

theorem test_encodeValue_vectors :
    [encodeValue .rawU16 36000#32, encodeValue .rawU16 65535#32, encodeValue .rawU16 65536#32,
      encodeValue .rawU16 (BitVec.ofInt 32 (-1)), encodeValue .signed16 (BitVec.ofInt 32 (-50)),
      encodeValue .signed16 (BitVec.ofInt 32 (-32768)), encodeValue .signed16 32767#32, encodeValue .signed16 32768#32,
      encodeValue .signed16 (BitVec.ofInt 32 (-32769))] =
    [some 0x8CA0#16, some 0xFFFF#16, none, none, some 0xFFCE#16, some 0x8000#16, some 0x7FFF#16, none, none] := by
  decide +kernel

/-! ### Register Map: V90 -/

theorem test_lookup_tempC :
    resultOf (exec (.lookup .tempC) State.reset) =
      some (.ok (.entry ⟨0x03EA#16, 2#16, .ieeeLikeFloat, true, false⟩)) := by decide

/-- R196: INTERVAL is raw-u16, of another kind its row is refused (log 25). -/
theorem test_rowOk_interval_kind :
    Config.candidate.rowOk .interval = true ∧
      { Config.candidate with regmap := { Config.candidateMap with interval := ⟨0x1450#16, 1#16, .signed16⟩ } }.rowOk
        .interval = false := by decide

/-! ### Reads: V100 to V106, V131, and the worked examples of R242 to R268 (REGMAP_I) -/

theorem test_rdregTempC_value :
    (resultOf (exec .rdregTempC (answering (some [0x03#8, 0x04#8, 0x00#8, 0x00#8, 0x41#8, 0xBC#8, 0x74#8, 0x17#8]))),
      callsOf (exec .rdregTempC (answering none))) =
    (some (.ok (.f64 0x4037800000000000#64)),
      [⟨0x5F#8, [0x03#8, 0x03#8, 0xEA#8, 0x00#8, 0x02#8, 0xE8#8, 0xC5#8], 8⟩]) := by decide +kernel

/-- V101 to V105, V131. -/
theorem test_rdregTempC_failures :
    [none, some [0x03#8, 0x04#8, 0x00#8, 0x00#8, 0x41#8, 0xBC#8, 0x74#8],
      some [0x03#8, 0x04#8, 0x00#8, 0x00#8, 0x41#8, 0xBC#8, 0x74#8, 0x17#8, 0x00#8], some [],
      some [0x03#8, 0x04#8, 0x00#8, 0x00#8, 0x40#8, 0xBC#8, 0x74#8],
      some [0x03#8, 0x04#8, 0x00#8, 0x00#8, 0x40#8, 0xBC#8, 0x74#8, 0x17#8]].map
        (fun a => resultOf (exec .rdregTempC (answering a))) =
    [some (.err .notAcknowledged), some (.err .notAcknowledged), some (.err .notAcknowledged),
      some (.err .notAcknowledged), some (.err .notAcknowledged), some (.err .checksumError)] := by decide +kernel

/-- The request bytes of the two-word reads. -/
theorem test_read_requests_measurements :
    [Instr.rdregTempU1, .rdregTempU2, .rdregCo2V0, .rdregCo2V1, .rdregCo2V2, .rdregCo2RawNpc, .rdregPresU0,
        .rdregPresU1].map (fun i => (callsOf (exec i (answering none))).map (fun c => (c.wbytes.drop 1, c.n))) =
    [[([0x03#8, 0xEC#8, 0x00#8, 0x02#8, 0x08#8, 0xC4#8], 8)], [([0x03#8, 0xF0#8, 0x00#8, 0x02#8, 0xC9#8, 0x02#8], 8)],
      [([0x04#8, 0x24#8, 0x00#8, 0x02#8, 0x88#8, 0x4E#8], 8)], [([0x04#8, 0x26#8, 0x00#8, 0x02#8, 0x29#8, 0x8E#8], 8)],
      [([0x04#8, 0x28#8, 0x00#8, 0x02#8, 0x48#8, 0x4D#8], 8)], [([0x04#8, 0x2A#8, 0x00#8, 0x02#8, 0xE9#8, 0x8D#8], 8)],
      [([0x04#8, 0xB0#8, 0x00#8, 0x02#8, 0xC9#8, 0xA2#8], 8)],
      [([0x04#8, 0xB2#8, 0x00#8, 0x02#8, 0x68#8, 0x62#8], 8)]] := by decide +kernel

/-- The request bytes of the others. -/
theorem test_read_requests_configuration :
    [Instr.rdregInterval, .rdregFilter, .rdregOffset, .rdregCust1, .rdregCust2, .rdregFwVersion, .rdregSerial,
        .rdregName, .rdregMode, .rdregStatus, .rdregDetailedStatus].map
      (fun i => (callsOf (exec i (answering none))).map (fun c => (c.wbytes.drop 1, c.n))) =
    [[([0x14#8, 0x50#8, 0x00#8, 0x01#8, 0x8C#8, 0x95#8], 6)], [([0x14#8, 0x51#8, 0x00#8, 0x01#8, 0xDD#8, 0x55#8], 6)],
      [([0x14#8, 0x52#8, 0x00#8, 0x01#8, 0x2D#8, 0x55#8], 6)], [([0x16#8, 0xA8#8, 0x00#8, 0x01#8, 0x0C#8, 0xDC#8], 6)],
      [([0x16#8, 0xA9#8, 0x00#8, 0x01#8, 0x5D#8, 0x1C#8], 6)], [([0x00#8, 0x08#8, 0x00#8, 0x01#8, 0x08#8, 0xB6#8], 6)],
      [([0x00#8, 0x00#8, 0x00#8, 0x08#8, 0x49#8, 0x72#8], 20)], [([0x00#8, 0x09#8, 0x00#8, 0x08#8, 0x99#8, 0x70#8], 20)],
      [([0x01#8, 0xF8#8, 0x00#8, 0x01#8, 0x09#8, 0x79#8], 6)], [([0x01#8, 0xF9#8, 0x00#8, 0x01#8, 0x58#8, 0xB9#8], 6)],
      [([0x02#8, 0x59#8, 0x00#8, 0x01#8, 0x58#8, 0xDF#8], 6)]] := by decide +kernel

/-- The replies of R244, R251, R253, R266 and R267. -/
theorem test_read_values :
    resultOf (exec .rdregCo2V0 (answering (some [0x03#8, 0x04#8, 0x60#8, 0x00#8, 0x43#8, 0xCE#8, 0xEB#8, 0x52#8]))) =
        some (.ok (.f64 0x4079CC0000000000#64)) ∧
      resultOf (exec .rdregInterval (answering (some [0x03#8, 0x02#8, 0x00#8, 0x96#8, 0x91#8, 0xE7#8]))) =
        some (.ok (.u16 150#16)) ∧
      resultOf (exec .rdregOffset (answering (some [0x03#8, 0x02#8, 0xFF#8, 0xCE#8, 0xD1#8, 0xED#8]))) =
        some (.ok (.s16 (-50))) ∧
      resultOf (exec .rdregMode (answering (some [0x03#8, 0x02#8, 0x00#8, 0x01#8, 0xD0#8, 0x49#8]))) =
        some (.ok (.u16 1#16)) ∧
      resultOf (exec .rdregStatus (answering (some [0x03#8, 0x02#8, 0x00#8, 0x03#8, 0x51#8, 0x88#8]))) =
        some (.ok (.u16 3#16)) := by decide +kernel

/-- P5: the two blobs, the second with its padding kept, and a 19-byte answer. -/
theorem test_rdregName_value :
    resultOf (exec .rdregName (answering (some ([0x03#8, 0x10#8, 0x45#8, 0x45#8, 0x38#8, 0x39#8, 0x35#8] ++
        List.replicate 11 0x00#8 ++ [0x01#8, 0xA1#8])))) =
      some (.ok (.bytes ([0x45#8, 0x45#8, 0x38#8, 0x39#8, 0x35#8] ++ List.replicate 11 0x00#8))) := by decide +kernel

theorem test_rdregSerial_short :
    resultOf (exec .rdregSerial (answering (some [0x03#8, 0x10#8, 0x30#8, 0x31#8, 0x32#8, 0x33#8, 0x34#8, 0x35#8, 0x36#8,
      0x37#8, 0x38#8, 0x39#8, 0x41#8, 0x42#8, 0x43#8, 0x44#8, 0x45#8, 0x46#8, 0x3A#8]))) =
      some (.err .notAcknowledged) := by decide +kernel

/-- R266, R267: the host's helpers. -/
theorem test_helpers :
    modeOf Config.candidate 1#16 = some .singleShot ∧ modeOf Config.candidate 2#16 = none ∧
      dataReady Config.candidate 2#16 = false ∧ triggerReady Config.candidate 2#16 = true := by decide +kernel

/-! ### Writes: V4 to V7, V107 to V120, and the worked examples of R256 to R262 (REGMAP_I) -/

theorem test_wrregInterval_bounds :
    [99#32, 36001#32, 65636#32, BitVec.ofInt 32 (-1)].map
      (fun v => (resultOf (exec (.wrregInterval v) (answering none)), callsOf (exec (.wrregInterval v) (answering none)))) =
    List.replicate 4 (some (.err .invalidIntervalInput), []) := by decide +kernel

theorem test_wrregInterval_runs :
    echoed (.wrregInterval 36000#32) [0x06#8, 0x14#8, 0x50#8, 0x8C#8, 0xA0#8, 0xE5#8, 0xED#8] =
        (some (.ok .unit), [⟨0x5F#8, [0x06#8, 0x14#8, 0x50#8, 0x8C#8, 0xA0#8, 0xE5#8, 0xED#8], 7⟩]) ∧
      (echoed (.wrregInterval 150#32) [0x06#8, 0x14#8, 0x50#8, 0x00#8, 0x64#8, 0x80#8, 0xBE#8]).1 =
        some (.err .registerWriteMismatch) ∧
      (echoed (.wrregInterval 150#32) [0x06#8, 0x14#8, 0x50#8, 0x00#8, 0x96#8, 0x01#8]).1 =
        some (.err .notAcknowledged) := by decide +kernel

theorem test_wrregFilter_bounds :
    [0#32, 21#32].map (fun v => resultOf (exec (.wrregFilter v) (answering none))) =
      List.replicate 2 (some (.err .invalidFilterInput)) := by decide +kernel

theorem test_wrregFilter_runs :
    echoed (.wrregFilter 20#32) [0x06#8, 0x14#8, 0x51#8, 0x00#8, 0x14#8, 0xD0#8, 0x9A#8] =
      (some (.ok .unit), [⟨0x5F#8, [0x06#8, 0x14#8, 0x51#8, 0x00#8, 0x14#8, 0xD0#8, 0x9A#8], 7⟩]) := by decide +kernel

theorem test_wrregOffset_runs :
    echoed (.wrregOffset (BitVec.ofInt 32 (-50))) [0x06#8, 0x14#8, 0x52#8, 0xFF#8, 0xCE#8, 0xE0#8, 0xF1#8] =
      (some (.ok .unit), [⟨0x5F#8, [0x06#8, 0x14#8, 0x52#8, 0xFF#8, 0xCE#8, 0xE0#8, 0xF1#8], 7⟩]) := by decide +kernel

theorem test_wrregOffset_refused :
    refusalOf (exec (.wrregOffset 40000#32) (answering none)) = some .valueOutOfRange := by decide +kernel

theorem test_wrregCust1_runs :
    echoed (.wrregCust1 0xFFFF#32) [0x06#8, 0x16#8, 0xA8#8, 0xFF#8, 0xFF#8, 0x00#8, 0xAC#8] =
      (some (.ok .unit), [⟨0x5F#8, [0x06#8, 0x16#8, 0xA8#8, 0xFF#8, 0xFF#8, 0x00#8, 0xAC#8], 7⟩]) := by decide +kernel

theorem test_wrregCust2_runs :
    echoed (.wrregCust2 0#32) [0x06#8, 0x16#8, 0xA9#8, 0x00#8, 0x00#8, 0x50#8, 0xDC#8] =
      (some (.ok .unit), [⟨0x5F#8, [0x06#8, 0x16#8, 0xA9#8, 0x00#8, 0x00#8, 0x50#8, 0xDC#8], 7⟩]) := by decide +kernel

theorem test_wrregMode_runs :
    echoed (.wrregMode 1#32) [0x06#8, 0x01#8, 0xF8#8, 0x00#8, 0x01#8, 0xC5#8, 0x79#8] =
        (some (.ok .unit), [⟨0x5F#8, [0x06#8, 0x01#8, 0xF8#8, 0x00#8, 0x01#8, 0xC5#8, 0x79#8], 7⟩]) ∧
      (deviceOf (exec (.wrregMode 1#32) (answering none))).map Device.mode = some .singleShot := by decide +kernel

theorem test_wrregMode_refused : refusalOf (exec (.wrregMode 2#32) (answering none)) = some .modeOperand := by decide

theorem test_wrregTrigger_runs :
    echoed .wrregTrigger [0x06#8, 0x01#8, 0xFA#8, 0x00#8, 0x01#8, 0x64#8, 0xB9#8] =
      (some (.ok .unit), [⟨0x5F#8, [0x06#8, 0x01#8, 0xFA#8, 0x00#8, 0x01#8, 0x64#8, 0xB9#8], 7⟩]) := by decide +kernel

/-! ### The bulk read: V121 to V123 (candidate layout) -/

theorem test_getall_value :
    resultOf (exec .getall (answeringOver withLayout
        (some [0x01#8, 0x9D#8, 0x09#8, 0x2E#8, 0x00#8, 0x00#8, 0x27#8, 0x95#8]))) =
      some (.ok (.bulk (47 / 2) 413 (10133 / 10))) := by decide +kernel

theorem test_getall_failures :
    (resultOf (exec .getall (answering (some [0x01#8, 0x9D#8, 0x09#8, 0x2E#8, 0x00#8, 0x00#8, 0x27#8]))),
      resultOf (exec .getall (answering none)), callsOf (exec .getall (answering none))) =
    (some (.err .notAcknowledged), some (.err .notAcknowledged), [⟨0x5E#8, [0x00#8], 8⟩]) := by decide +kernel

/-! ### The wire frames (log 15) -/

/-- The frame of `RDREG.TEMP_C`, and one that no read emits (one word of the eight of SERIAL): built, not sent. Neither has
a right checksum as presented. -/
theorem test_rqR_value :
    echoed (.rqR 0x03EA#16 2#16 0#16) [0x03#8, 0x04#8, 0x00#8, 0x00#8, 0x41#8, 0xBC#8, 0x74#8, 0x17#8] =
        (some (.ok (.f64 0x4037800000000000#64)),
          [⟨0x5F#8, [0x03#8, 0x03#8, 0xEA#8, 0x00#8, 0x02#8, 0xE8#8, 0xC5#8], 8⟩]) ∧
      echoed (.rqR 0x0000#16 1#16 0#16) [] =
        (some (.ok (.frame [0x03#8, 0x00#8, 0x00#8, 0x00#8, 0x01#8, 0x89#8, 0x74#8])), []) := by decide +kernel

theorem test_rqR_refused :
    refusalOf (exec (.rqR 0x03EA#16 0#16 0#16) (answering none)) = some .wordCountZero := by decide +kernel

theorem test_rqW_value :
    echoed (.rqW 0x1450#16 100#16 0xBE80#16) [0x06#8, 0x14#8, 0x50#8, 0x00#8, 0x64#8, 0x80#8, 0xBE#8] =
      (some (.ok .unit), [⟨0x5F#8, [0x06#8, 0x14#8, 0x50#8, 0x00#8, 0x64#8, 0x80#8, 0xBE#8], 7⟩]) := by decide +kernel

/-- A frame to INTERVAL with 99 fails validation (R256); one to the read-only TEMP_C and one to no register are built and
not sent (R190). -/
theorem test_rqW_not_sent :
    echoed (.rqW 0x1450#16 99#16 0#16) [] = (some (.err .invalidIntervalInput), []) ∧
      (echoed (.rqW 0x03EA#16 1#16 0#16) []).2 = [] ∧
      echoed (.rqW 0xFFFF#16 0xFFFF#16 0#16) [] =
        (some (.ok (.frame [0x06#8, 0xFF#8, 0xFF#8, 0xFF#8, 0xFF#8, 0x85#8, 0x20#8])), []) := by decide +kernel

/-! ### Step -/

/-- A table word placed where the step takes its command runs as the first command after reset (R40, log 17). -/
theorem test_step_runs_the_table_word :
    (resultOf (step (State.reset.withFetchWord 16 0x0100)), callsOf (step (State.reset.withFetchWord 16 0x1000)),
      callsOf (step (State.reset.withFetchWord 56 0x061450006480BE))) =
    (some (.ok (.u16 0x78FF#16)), [⟨0x5F#8, [0x03#8, 0x03#8, 0xEA#8, 0x00#8, 0x02#8, 0xE8#8, 0xC5#8], 8⟩],
      [⟨0x5F#8, [0x06#8, 0x14#8, 0x50#8, 0x00#8, 0x64#8, 0x80#8, 0xBE#8], 7⟩]) := by decide +kernel

/-! ### Witnesses: a state and operands that meet the hypotheses of each statement, at the boundaries of its ranges -/

theorem candidate_conforming : Config.candidate.Conforming := by decide +kernel

theorem longVersion_conforming : longVersion.Conforming := by decide +kernel

/-- After reset with one command presented. -/
def withCommand (e : Encoded) : State := { State.reset with cmdPort := [e] }

/-- A command waiting in TRANSACT: a mode write sent, no answer yet. -/
def waiting : State :=
  match exec (.wrregMode 1#32) State.reset with
  | .next s => s
  | _ => State.reset

/-- The same with the answer at hand. -/
def answered : State := { waiting with turns := [.scripted none true {}] }

theorem reset_inv : MachineInv State.reset := by
  constructor <;> simp [State.reset, Device.reset, Memory.wf, Forward, Config.candidate]

theorem withCommand_inv (e : Encoded) : MachineInv (withCommand e) := by
  constructor <;> simp [withCommand, State.reset, Device.reset, Memory.wf, Forward, Config.candidate]

theorem answered_inv : MachineInv answered where
  visible := .inr (.inl (by decide +kernel))
  inFlight := by decide +kernel
  bus := by decide +kernel
  result := by decide +kernel
  oneCall p hp := by
    have h : answered.pending = some ⟨⟨0x5F#8, [0x06#8, 0x01#8, 0xF8#8, 0x00#8, 0x01#8, 0xC5#8, 0x79#8], 7⟩, .echo⟩ := by
      decide +kernel
    cases Option.some.inj (h.symm.trans hp)
    decide +kernel
  calls := by decide +kernel
  path := by decide +kernel
  engine := by decide +kernel
  rx := by decide +kernel
  depth := by decide +kernel
  memory := by decide +kernel

theorem witness_DecodeInvertsEncode :
    [Instr.bldrd 0xFFFF#16 0xFFFF#16, .prsrd [0#8, 0#8, 0#8, 0#8, 0#8, 0#8] 6, .wrregMode 1#32, .wrregCust1 65535#32,
      .rqR 0#16 1#16 0xFFFF#16].all Instr.wellFormed = true := by decide

theorem witness_DecodedItemHasTheTableSelector :
    decode (.cmd { opc := 0x11#8, regid := 20#8, v := 7#32 }) = .ok .wrregTrigger ∧
      decode (.wire [0x06#8, 0xFF#8, 0xFF#8, 0xFF#8, 0xFF#8, 0xFF#8, 0xFF#8]) =
        .ok (.rqW 0xFFFF#16 0xFFFF#16 0xFFFF#16) := by decide +kernel

theorem witness_StepKeepsTheInvariant : ∃ t, MachineInv answered ∧ step answered = .next t :=
  ⟨_, answered_inv, rfl⟩

theorem witness_StepNeverFaults : MachineInv (withCommand (.cmd { opc := 0xFF#8 })) := withCommand_inv _

theorem witness_StepRunsTheDecodedCommand :
    (withCommand (.cmd { opc := 0x12#8 })).phase = .idle ∧ decode (.cmd { opc := 0x12#8 }) = .ok .getall ∧
      (withCommand (.cmd { opc := 0x12#8 })).schedule = [] ∧
      (State.reset.withFetchWord 16 0x1200).schedule = [.core] ∧
      (State.reset.withFetchWord 16 0x1200).cmdPort = [tableWord 16 0x1200] ∧
      decode (.cmd { opc := 0xFF#8 }) = .error .unknownSelector ∧
      (State.reset.withFetchWord 16 0xFF00).schedule = [.core] ∧
      decode (tableWord 16 0xFF00) = .error .unknownSelector := by decide +kernel

theorem witness_TakenResultReturnsToIdle :
    (raise .notAcknowledged State.reset).phase = .done ∧ (raise .notAcknowledged State.reset).schedule = [] := by decide

theorem witness_PresentedCommandWaits :
    { waiting with schedule := [.present (.cmd { opc := 0x12#8 })] }.schedule = [.present (.cmd { opc := 0x12#8 })] ∧
      waiting.phase = .transact := by decide +kernel

theorem witness_UnansweredTransactionWaits :
    waiting.phase = .transact ∧ waiting.pending.isSome = true ∧ waiting.turns = [] ∧ waiting.schedule = [] := by
  decide +kernel

theorem witness_ResetInputAbandonsTheCommand :
    { waiting with schedule := [.reset true {}] }.schedule = [.reset true {}] ∧
      waiting.pending.map (fun p => p.call.addr) = some 0x5F#8 ∧ State.reset.pending = none := by decide +kernel

theorem witness_ConfigurationIsConstant : step State.reset = .next State.reset := rfl

theorem witness_StatusNumbersAndStringsAreOneToOne : Config.candidate.Conforming := candidate_conforming

theorem witness_BldrdBuildsTheReadRequest : (1#16 : Word) ≠ 0#16 ∧ (0xFFFF#16 : Word) ≠ 0#16 := by decide

theorem witness_SingleByteChangeIsDetected :
    let f := [0x03#8, 0x04#8, 0x00#8, 0x00#8, 0x41#8, 0xBC#8, 0x74#8, 0x17#8]
    4 ≤ f.length ∧ 0 < f.length ∧ 7 < f.length ∧ f[0]? ≠ some 0x04#8 ∧ f[7]? ≠ some 0x16#8 ∧
      parseRead f f.length = .ok [0x00#8, 0x00#8, 0x41#8, 0xBC#8] := by decide +kernel

theorem witness_PrsrdParsesTheReply :
    let f := [0x03#8, 0x02#8, 0x00#8, 0x96#8, 0x91#8, 0xE7#8]
    ¬(f.length = 8 ∧ 6 ≤ 8 ∧ 8 % 2 = 0) ∧ ¬((f.take 4).length = 4 ∧ 6 ≤ 4 ∧ 4 % 2 = 0) ∧
      ¬((0#8 :: f).length = 7 ∧ 6 ≤ 7 ∧ 7 % 2 = 0) ∧ f.length = 6 ∧ 6 ≤ 6 ∧ 6 % 2 = 0 ∧ checksum16 (f.take 4) = join16 (f.getD 5 0#8) (f.getD 4 0#8) ∧
      checksum16 ((f.set 0 0x04#8).take 4) ≠ join16 (f.getD 5 0#8) (f.getD 4 0#8) := by decide +kernel

theorem witness_WriteRoundTripParses :
    resultOf (exec (.bldwr 0x1450#16 0x00#8 0x64#8) State.reset) =
      some (.ok (.frame [0x06#8, 0x14#8, 0x50#8, 0x00#8, 0x64#8, 0x80#8, 0xBE#8])) := by decide +kernel

theorem witness_ReadsRunTheGenericSequence :
    readOps[(19#8 : Byte).toNat]? = some (.rdregDetailedStatus, .detailedStatus) ∧ (Instr.rdregName, RegName.name) ∈ readOps ∧ (answering none).cfg.Conforming ∧
      replyLen ((answering none).cfg.row .name).wordCount = (answering none).cfg.rxbufDepth ∧ (answering none).turns ≠ [] :=
  ⟨by decide, by decide, candidate_conforming, by decide, by decide⟩

theorem witness_TemperatureReadSendsTheLiteralRequest :
    let r := [0x03#8, 0x04#8, 0x00#8, 0x00#8, 0x41#8, 0xBC#8, 0x74#8, 0x17#8]
    (answeringOver { Config.candidate with rxbufDepth := 8 } (some r)).turns = [.scripted (some r) true {}] ∧
      8 ≤ (answeringOver { Config.candidate with rxbufDepth := 8 } (some r)).cfg.rxbufDepth := by decide

theorem witness_ReadsTooLongForTheBufferAreRefused :
    (Instr.rdregFwVersion, RegName.fwVersion) ∈ readOps ∧ (answeringOver longVersion none).cfg.Conforming ∧
      (answeringOver longVersion none).cfg.rxbufDepth <
        replyLen ((answeringOver longVersion none).cfg.row .fwVersion).wordCount :=
  ⟨by decide, longVersion_conforming, by decide⟩

theorem witness_BlobReadsReturnTheMiddleSixteenBytes :
    let f := [0x03#8, 0x10#8, 0x30#8, 0x31#8, 0x32#8, 0x33#8, 0x34#8, 0x35#8, 0x36#8, 0x37#8, 0x38#8, 0x39#8, 0x41#8,
      0x42#8, 0x43#8, 0x44#8, 0x45#8, 0x46#8, 0x3A#8, 0xB3#8]
    (answering (some f)).cfg.Conforming ∧ (answering (some f)).turns = [.scripted (some f) true {}] ∧ f.length = 20 ∧
      checksum16 (f.take 18) = join16 (f.getD 19 0#8) (f.getD 18 0#8) := by decide +kernel

theorem witness_FdecReturnsTheValue :
    let c : Cmd := { opc := 0x02#8, buf := [0x00#8, 0x00#8, 0x3F#8, 0x80#8] }
    c.opc = 0x02#8 ∧ c.buf = [0x00#8, 0x00#8, 0x3F#8, 0x80#8] ∧ (c.buf.drop 1).length ≠ 4 := by decide

theorem witness_LookupReturnsTheEntry :
    (20#8, RegName.trigger, Config.candidateMap.trigger, false, true) ∈ regTable Config.candidate ∧
      (0#8, RegName.tempC, Config.tempCRow, true, false) ∈ regTable Config.candidate ∧
      State.reset.cfg = Config.candidate ∧ 20 < (21#8 : Byte).toNat := by decide

theorem witness_IntervalWriteIsValidated :
    (99 < (100#32).toInt ∧ (100#32).toInt < 36001 ∧ 99 < (36000#32).toInt ∧ (36000#32).toInt < 36001 ∧
      (answering none).cfg.Conforming ∧ (answering none).turns ≠ []) ∧
    ¬(99 < (99#32).toInt ∧ (99#32).toInt < 36001) ∧ ¬(99 < (36001#32).toInt ∧ (36001#32).toInt < 36001) :=
  ⟨⟨by decide, by decide, by decide, by decide, candidate_conforming, by decide⟩, by decide, by decide⟩

theorem witness_FilterWriteIsValidated :
    (0 < (1#32).toInt ∧ (1#32).toInt < 21 ∧ 0 < (20#32).toInt ∧ (20#32).toInt < 21 ∧
      (answering none).cfg.Conforming ∧ (answering none).turns ≠ []) ∧
    ¬(0 < (0#32).toInt ∧ (0#32).toInt < 21) ∧ ¬(0 < (21#32).toInt ∧ (21#32).toInt < 21) :=
  ⟨⟨by decide, by decide, by decide, by decide, candidate_conforming, by decide⟩, by decide, by decide⟩

/-- OFFSET is signed, CUST1 unsigned in the candidate map: both kinds at both ends of their ranges. -/
theorem witness_PlainWritesRunInTheRangeOfTheKind :
    (answering none).cfg.Conforming ∧ (Config.candidate.row .offset).kind = .signed16 ∧
      (Config.candidate.row .cust1).kind = .rawU16 ∧ (BitVec.ofInt 32 (-32768)).toInt = -32768 ∧
      (32767#32).toInt = 32767 ∧ (65535#32).toInt = 65535 ∧ ¬((65536#32).toInt ≤ 65535) ∧ ¬((32768#32).toInt ≤ 32767) ∧
      ¬(0 ≤ (BitVec.ofInt 32 (-1)).toInt) ∧ (answering none).turns ≠ [] :=
  ⟨candidate_conforming, by decide, by decide, by decide, by decide, by decide, by decide, by decide, by decide,
    by decide⟩

theorem witness_ModeWriteSendsTheModeWord :
    (answering none).cfg.Conforming ∧ (2#32).toInt ≠ 0 ∧ (2#32).toInt ≠ 1 ∧ (0#32).toInt = 0 ∧ (1#32).toInt = 1 ∧
      (answering none).turns ≠ [] :=
  ⟨candidate_conforming, by decide, by decide, by decide, by decide, by decide⟩

theorem witness_TriggerAlwaysSends : (answering none).cfg.Conforming ∧ (answering none).turns ≠ [] :=
  ⟨candidate_conforming, by decide⟩

theorem witness_GetallReadsTheBulkReply : (answering none).turns = [.scripted none true {}] := rfl

/-- The frame of a read, at the greatest length, and one that no read emits: half of TEMP_C. -/
theorem witness_ReadFrameIsTheReadItNames :
    (Instr.rdregName, RegName.name) ∈ readOps ∧ (answering none).cfg.Conforming ∧
      replyLen ((answering none).cfg.row .name).wordCount = (answering none).cfg.rxbufDepth ∧ (answering none).turns ≠ [] ∧
      (1#16 : Word) ≠ 0#16 ∧
      ∀ p ∈ readOps, ((answering none).cfg.row p.2).address = 0x03EA#16 →
        ((answering none).cfg.row p.2).wordCount ≠ 1#16 :=
  ⟨by decide, candidate_conforming, by decide, by decide, by decide, by decide⟩

/-- One address per clause, and a frame that no write emits: another word to MODE. -/
theorem witness_WriteFrameIsTheWriteItNames :
    let cfg := (answering none).cfg
    cfg.Conforming ∧ (answering none).turns ≠ [] ∧ 0x1450#16 = (cfg.row .interval).address ∧
      0x1451#16 = (cfg.row .filter).address ∧ 0x01F8#16 = (cfg.row .mode).address ∧
      0x01FA#16 = (cfg.row .trigger).address ∧ 0x16A9#16 = (cfg.row .cust2).address ∧
      (∀ r ∈ [RegName.interval, .filter, .offset, .cust1, .cust2], 0x01F8#16 ≠ (cfg.row r).address) ∧
      2#16 ≠ cfg.modeContinuous ∧ 2#16 ≠ cfg.modeSingleShot ∧ 0x01F8#16 ≠ (cfg.row .trigger).address :=
  ⟨candidate_conforming, by decide, by decide, by decide, by decide, by decide, by decide, by decide, by decide,
    by decide, by decide⟩

theorem witness_FailuresAreThoseOfTheMatrix :
    resultOf (exec .getall (answering none)) = some (.err .notAcknowledged) := by decide +kernel

/-- A primitive, a client operation that fails VALIDATE, one that passes it. -/
theorem witness_TransactionCountIsAtMostOne :
    isPrimitive (.crc16 []) = true ∧ (resultOf (exec (.crc16 []) State.reset)).isSome = true ∧
      isClient (.wrregFilter 0#32) = true ∧ isClient .getall = true ∧ isClient .rdregName = true ∧
      resultOf (exec (.wrregFilter 0#32) State.reset) = some (.err .invalidFilterInput) ∧
      resultOf (exec .getall (answering none)) = some (.err .notAcknowledged) := by decide +kernel

theorem witness_PhasesNeverMoveBackward : ∃ t, exec .getall (answering none) = .next t := ⟨_, rfl⟩

/-- A result, and a refusal, from two states that differ in everything but the configuration and the answer. -/
theorem witness_ResultDependsOnAnswerOnly :
    (answering none).cfg = answered.cfg ∧ (answering none).turns = [.scripted none true {}] ∧
      answered.turns = [.scripted none true {}] ∧ answering none ≠ answered ∧
      (resultOf (exec .wrregTrigger (answering none))).isSome = true ∧
      (refusalOf (exec (.wrregMode 2#32) (answering none))).isSome = true := by decide +kernel

/-- A client operation with no answer at hand, and with one. -/
theorem witness_WaitingChangesNothing :
    ∃ t u, State.reset.schedule = [] ∧ State.reset.turns = [] ∧ exec (.wrregMode 1#32) State.reset = .next t ∧
      t.calls ≠ [] ∧ exec (.wrregMode 1#32) { State.reset with turns := [.scripted none false {}] } = .next u :=
  ⟨_, _, rfl, rfl, rfl, by decide +kernel, rfl⟩

theorem witness_OperationsKeepPortAndConfiguration : ∃ t, exec (.crc16 []) State.reset = .next t := ⟨_, rfl⟩

theorem witness_ModeChangesOnlyByModeWrite :
    MachineInv answered ∧ (deviceOf (step answered)).map Device.mode = some .singleShot ∧
      answered.dev.mode = .continuous := ⟨answered_inv, by decide +kernel, by decide +kernel⟩

/-- A bus that is free and one that is held, and a frame for each clause: both mode words and another, a trigger that is
meaningful (from Available, the boundary of log 11) and one that is not, a write to CUST2 and one to the read-only TEMP_C,
a read, and no request. -/
theorem witness_OtherUserActsOnTheDeviceAlone :
    let s (d : Device) (f : List Byte) := { State.reset with dev := d, schedule := [.otherUser f {}] }
    let cfg := Config.candidate
    let d := { triggerable with phase := .available }
    (∀ f, (s d f).schedule = [.otherUser f {}] ∧ (s d f).busHeld = false ∧ (s d f).cfg = cfg) ∧ cfg.Conforming ∧
      waiting.busHeld = true ∧
      (cfg.row .mode).address = 0x01F8#16 ∧ 0#16 = cfg.modeContinuous ∧ 1#16 = cfg.modeSingleShot ∧
      2#16 ≠ cfg.modeContinuous ∧ 2#16 ≠ cfg.modeSingleShot ∧
      (cfg.row .trigger).address = 0x01FA#16 ∧ 1#16 = cfg.trigVal ∧ d.mode = .singleShot ∧ d.settled = true ∧
      d.trigReady = true ∧ d.phase ≠ .pending ∧ Device.reset.mode = .continuous ∧
      RegName.cust2.writable = true ∧ RegName.cust2 ≠ .mode ∧ RegName.cust2 ≠ .trigger ∧
      (∀ r ∈ RegName.all, r.writable = true → (cfg.row r).address ≠ 0x03EA#16) ∧
      ([] : List Byte).length ≠ (requestBytes 0x03#8 0#16 0#16).length :=
  ⟨fun _ => ⟨rfl, rfl, rfl⟩, candidate_conforming, by decide +kernel, by decide, rfl, rfl, by decide, by decide,
    by decide, rfl, rfl, rfl, rfl, by decide, rfl, rfl, by decide, by decide, by decide, by decide⟩

theorem witness_DeliveredModeWriteSetsTheMode :
    let echo := some (requestBytes 0x06#8 0x01F8#16 0x0001#16)
    (answering none).cfg.Conforming ∧ (answering none).turns = [.scripted none true {}] ∧
      { State.reset with turns := [.scripted echo false {}] }.turns = [.scripted echo false {}] ∧
      echo = some (requestBytes 0x06#8 (State.reset.cfg.row .mode).address State.reset.cfg.modeSingleShot) ∧
      none ≠ echo := ⟨candidate_conforming, rfl, rfl, rfl, by decide⟩

/-- A meaningful trigger, and one in Continuous mode. -/
theorem witness_TriggerStartsAMeasurement :
    let s := { answering none with dev := triggerable }
    s.cfg.Conforming ∧ s.turns = [.scripted none true {}] ∧ s.dev.mode = .singleShot ∧ s.dev.settled = true ∧
      s.dev.trigReady = true ∧ s.dev.phase ≠ .pending ∧ (answering none).dev.mode = .continuous :=
  ⟨candidate_conforming, rfl, rfl, rfl, rfl, by decide, rfl⟩

theorem witness_DeviceFinishesAMeasurement :
    let s := { State.reset with dev := { triggerable with phase := .pending }, schedule := [.device true {}] }
    s.schedule = [.device true {}] ∧ s.dev.mode = .singleShot ∧ s.dev.settled = true ∧ s.dev.phase = .pending ∧
      ({ triggerable with phase := .pending }.ownMove false {}).phase = .pending ∧
      ({ triggerable with dataReady := true }.ownMove false {}).dataReady = true := by decide

/-- Delivered with no drift, and not delivered. -/
theorem witness_WritesStoreOneWord :
    (answering none).cfg.Conforming ∧ (answering none).turns = [.scripted none true {}] ∧
      ({} : Drift).content = [] ∧ none ≠ some (writeCall Config.candidate .cust1 0xFFFF#16).wbytes ∧ callsOf (exec (.wrregCust1 65535#32) (answering none)) ≠ [] ∧
      callsOf (exec .wrregTrigger { State.reset with turns := [.scripted none false {}] }) ≠ [] :=
  ⟨candidate_conforming, rfl, rfl, by decide, by decide +kernel, by decide +kernel⟩

theorem witness_ReadsStoreNothing :
    (answering none).turns = [.scripted none true {}] ∧ (deviceOf (exec .rdregName (answering none))).isSome = true ∧
      (deviceOf (exec (.rqW 0xFFFF#16 1#16 0#16) (answering none))).isSome = true := by decide +kernel

theorem witness_ReferenceDeviceReadsBackWhatWasWritten :
    let s := { State.reset with turns := [.reference, .reference] }
    s.cfg.Conforming ∧ encodeValue (s.cfg.row .offset).kind (BitVec.ofInt 32 (-32768)) = some 0x8000#16 ∧
      s.turns = [.reference, .reference] := ⟨candidate_conforming, by decide, rfl⟩

theorem witness_ModeReadAfterModeWriteShowsTheMode :
    let s := { State.reset with turns := [.faithful {}, .faithful {}] }
    s.cfg.Conforming ∧ s.turns = [.faithful {}, .faithful {}] ∧
      (1#32, Mode.singleShot) ∈ [(0#32, Mode.continuous), (1#32, .singleShot)] :=
  ⟨candidate_conforming, rfl, by decide⟩

theorem witness_MeasurementReadShowsTheFreshSample :
    let s := { State.reset with
      turns := [.faithful {}], dev := { triggerable with phase := .available, dataReady := true, measurements := 1 } }
    (Instr.rdregPresU1, RegName.presU1) ∈ readOps ∧ RegName.presU1.isMeasurement = true ∧ s.cfg.Conforming ∧
      replyLen (s.cfg.row .presU1).wordCount ≤ s.cfg.rxbufDepth ∧ s.turns = [.faithful {}] ∧ s.dev.mode = .singleShot ∧
      s.dev.settled = true ∧ s.dev.phase = .available ∧ s.dev.dataReady = true :=
  ⟨by decide, rfl, candidate_conforming, by decide, rfl, rfl, rfl, rfl, rfl⟩

theorem witness_StatusPollShowsTheFlags :
    let s := { State.reset with turns := [.faithful {}] }
    s.cfg.Conforming ∧ s.turns = [.faithful {}] := ⟨candidate_conforming, rfl⟩

end Sys2Proof.Tests
end

section
/-! PROOFS. The two wire frames: each is the read or write it names, or is only built (O42, O43). -/

namespace Sys2Proof.Machine

open Sys2Proof.Safety

/-! ### The builder -/

/-- A request that is only built is a primitive of the Checksum Engine over its first five bytes. -/
theorem buildOnly_checksumPrimitive (q : Request) (s : State) :
    ChecksumPrimitive q.body (.ok (.frame q.bytes)) s (buildOnly q s) := by
  constructor <;> constructor <;> simp [buildOnly]

/-! ### The answered read and the answered write -/

/-- A framed operation that is answered: one transaction with its request. -/
theorem framed_oneTransaction (q : Request) (n : Nat) (x : Expect) {s : State} (ht : s.turns ≠ []) :
    OneTransaction (framedCall q n x).call
      (answeredResult (framedCall q n x) (answerOf s (framedCall q n x).call) q s.cfg.bulkLayout) s
      (framed q n x (enter .validate (accept s))) :=
  transact_oneTransaction (ready_framed q s) ht

theorem framedCall_buildRead (c : Config) (r : RegName) (x : Expect) :
    (framedCall (buildRead (c.row r).address (c.row r).wordCount) (replyLen (c.row r).wordCount) x).call =
      readCall c r := by
  simp [framedCall, readCall, buildRead_bytes, replyLen, Config.periphAddr]

theorem framedCall_buildWrite (c : Config) (r : RegName) (w : Word) (x : Expect) :
    (framedCall (buildWrite (c.row r).address w) Config.reqLen x).call = writeCall c r w := by
  simp [framedCall, writeCall, buildWrite_bytes, Config.periphAddr, Config.reqLen]

/-- A read whose reply fits `RXBUF`, answered: its one transaction with the result of R232. -/
theorem regRead_oneTransaction {s : State} {r : RegName} (h : s.cfg.Conforming)
    (hd : replyLen (s.cfg.row r).wordCount ≤ s.cfg.rxbufDepth) (ht : s.turns ≠ []) :
    ∃ t, regRead r s = .next t ∧
      OneTransaction (readCall s.cfg r)
        (readResult (readCall s.cfg r).n (s.cfg.row r).kind (answerOf s (readCall s.cfg r))) s t := by
  refine ⟨_, regRead_eq h hd, ?_⟩
  have hone := framed_oneTransaction (buildRead (s.cfg.row r).address (s.cfg.row r).wordCount)
    (replyLen (s.cfg.row r).wordCount) (.frame (s.cfg.row r).kind) ht
  rwa [readResult_eq _ _ rfl, framedCall_buildRead] at hone

/-- An echo is compared byte by byte: the Checksum Engine stays as it is (R126). -/
theorem receive_engine_echo {p : Pending} (hp : p.expect = .echo) (a : Option (List Byte)) (s : State) :
    (receive p a s).acc = s.acc ∧ (receive p a s).byteIdx = s.byteIdx ∧ (receive p a s).bitCnt = s.bitCnt := by
  cases a with
  | none => exact ⟨rfl, rfl, rfl⟩
  | some f =>
    by_cases hl : f.length = p.call.n
    · rw [receive_reply p s hl, hp]
      exact checkReply_engine_echo ..
    · rw [receive_wrongLength p s hl]
      exact ⟨rfl, rfl, rfl⟩

/-- The transaction of a write leaves the Checksum Engine as its request left it. -/
theorem transact_engine_echo {p : Pending} (hp : p.expect = .echo) (s : State) :
    (transact p s).acc = s.acc ∧ (transact p s).byteIdx = s.byteIdx ∧ (transact p s).bitCnt = s.bitCnt := by
  cases hs : s.turns with
  | nil => rw [transact_nil p hs]; exact ⟨rfl, rfl, rfl⟩
  | cons t ts => rw [transact_cons p hs]; exact receive_engine_echo hp ..

/-- The generic write of a word, answered, runs the sequence of R236. -/
theorem regWrite_writeRan {s : State} (r : RegName) (w : Word) (h : s.cfg.Conforming) (ht : s.turns ≠ []) :
    ∃ t, regWrite r w (enter .validate (accept s)) = .next t ∧ WriteRan r w s t := by
  refine ⟨_, regWrite_eq h w, ?ran, ?tx, ?engine⟩
  case ran =>
    have hone := framed_oneTransaction (buildWrite (s.cfg.row r).address w) Config.reqLen .echo ht
    rwa [writeResult_eq _ rfl rfl, framedCall_buildWrite, buildWrite_bytes] at hone
  case tx =>
    rw [framed_eq, transact_txbuf]
    exact buildWrite_bytes ..
  case engine =>
    rw [framed_eq]
    obtain ⟨hacc, hidx, hbit⟩ :=
      transact_engine_echo (p := framedCall (buildWrite (s.cfg.row r).address w) Config.reqLen .echo) rfl
        (loadTx (buildWrite (s.cfg.row r).address w) (enter .build (enter .validate (accept s))))
    exact ⟨hacc, hidx, hbit⟩

/-! ### The register a frame names -/

theorem readAt_eq_some {c : Config} {a n : Word} {r : RegName} (h : readAt c a n = some r) :
    (c.row r).address = a ∧ r.readable = true ∧ (c.row r).wordCount = n := by
  simp only [readAt, Option.filter_eq_some_iff, Bool.and_eq_true, beq_iff_eq] at h
  obtain ⟨hname, hread, hcount⟩ := h
  exact ⟨nameAt_address hname, hread, hcount⟩

theorem writeAt_eq_some {c : Config} {a w : Word} {r : RegName} (h : writeAt c a w = some r) :
    (c.row r).address = a ∧ r.writable = true ∧ sendsWord c r w = true := by
  simp only [writeAt, Option.filter_eq_some_iff, Bool.and_eq_true] at h
  obtain ⟨hname, hwrite, hsends⟩ := h
  exact ⟨nameAt_address hname, hwrite, hsends⟩

/-- The reads of R240 to R268 are those of the readable registers. -/
theorem readable_iff_mem_readOps (r : RegName) : r.readable = true ↔ ∃ i, (i, r) ∈ readOps := by
  have htable : r.readable = true ↔ r ∈ readOps.map Prod.snd := by cases r <;> decide
  simpa using htable

/-- An entry of a conforming map has at least one word (R193). -/
theorem wordCount_ne_zero {c : Config} (h : c.Conforming) (r : RegName) : (c.row r).wordCount ≠ 0#16 := by
  have hok := rowOk_of_conforming h r
  intro h0
  cases hk : (c.row r).kind <;> simp [Config.rowOk, MapRow.lengthOk, hk, h0] at hok

theorem sendsWord_mode (c : Config) (w : Word) :
    sendsWord c .mode w = true ↔ w = c.modeContinuous ∨ w = c.modeSingleShot := by
  by_cases h : w = c.modeContinuous
  · simp [sendsWord, modeOf, h]
  · simp [sendsWord, modeOf, h]

theorem sendsWord_trigger (c : Config) (w : Word) : sendsWord c .trigger w = true ↔ w = c.trigVal := by
  simp [sendsWord]

/-- A register that is neither `MODE` nor `TRIGGER` is written with any word. -/
theorem sendsWord_other (c : Config) {r : RegName} (w : Word) (hm : r ≠ .mode) (ht : r ≠ .trigger) :
    sendsWord c r w = true := by
  simp [sendsWord, hm, ht]

/-- No read emits a frame that has not the address and length of a readable register. -/
theorem readAt_none {c : Config} {a n : Word}
    (h : ∀ i r, (i, r) ∈ readOps → (c.row r).address = a → (c.row r).wordCount ≠ n) : readAt c a n = none := by
  refine Option.eq_none_iff_forall_ne_some.2 fun r hr => ?_
  obtain ⟨haddr, hread, hcount⟩ := readAt_eq_some hr
  obtain ⟨i, hi⟩ := (readable_iff_mem_readOps r).1 hread
  exact h i r hi haddr hcount

/-- No write emits a frame to an address of no writable register, or with a word that `MODE`'s or `TRIGGER`'s write does
not send. -/
theorem writeAt_none {c : Config} {a w : Word}
    (hother : ∀ r ∈ [RegName.interval, .filter, .offset, .cust1, .cust2], a ≠ (c.row r).address)
    (hmode : a = (c.row .mode).address → w ≠ c.modeContinuous ∧ w ≠ c.modeSingleShot)
    (htrigger : a = (c.row .trigger).address → w ≠ c.trigVal) : writeAt c a w = none := by
  refine Option.eq_none_iff_forall_ne_some.2 fun r hr => ?_
  obtain ⟨haddr, hwrite, hsends⟩ := writeAt_eq_some hr
  by_cases hm : r = .mode
  · subst hm
    exact ((sendsWord_mode c w).1 hsends).elim (hmode haddr.symm).1 (hmode haddr.symm).2
  by_cases ht : r = .trigger
  · subst ht
    exact htrigger haddr.symm ((sendsWord_trigger c w).1 hsends)
  have hmem : r ∈ [RegName.interval, .filter, .offset, .cust1, .cust2] := by
    revert hwrite hm ht
    cases r <;> decide
  exact hother r hmem haddr.symm

/-! ### The frames -/

/-- The frame of a register's read is that read, whatever its checksum field (log 15). -/
theorem exec_rqR_row {s : State} {r : RegName} (crc : Word) (h : s.cfg.Conforming) (hr : r.readable = true) :
    exec (.rqR (s.cfg.row r).address (s.cfg.row r).wordCount crc) s = regRead r s :=
  execRqR_some crc (wordCount_ne_zero h r) (readAt_row h hr)

/-- A write frame of no register's write is built and returned (log 15). -/
theorem execRqW_none {addr w : Word} (crc : Word) {s : State} (h : writeAt s.cfg addr w = none) :
    execRqW addr w crc s = .next (buildOnly (buildWrite addr w) s) := by
  simp [execRqW, h]

/-- A write frame to `INTERVAL` is the validated write of its word (R205). -/
theorem exec_rqW_interval {s : State} (w crc : Word) (h : s.cfg.Conforming) :
    exec (.rqW (s.cfg.row .interval).address w crc) s = exec (.wrregInterval (w.setWidth 32)) s := by
  have hw := writeAt_row (w := w) h (r := .interval) rfl rfl
  simp [exec, execRqW, execWrregInterval, hw]

/-- A write frame to `FILTER` is the validated write of its word (R206). -/
theorem exec_rqW_filter {s : State} (w crc : Word) (h : s.cfg.Conforming) :
    exec (.rqW (s.cfg.row .filter).address w crc) s = exec (.wrregFilter (w.setWidth 32)) s := by
  have hw := writeAt_row (w := w) h (r := .filter) rfl rfl
  simp [exec, execRqW, execWrregFilter, hw]

/-- A write frame to a register without validation, with a word its write sends, is the generic write of that word. -/
theorem exec_rqW_row {s : State} {r : RegName} {w : Word} (crc : Word) (h : s.cfg.Conforming) (hr : r.writable = true)
    (hi : r ≠ .interval) (hf : r ≠ .filter) (hw : sendsWord s.cfg r w = true) :
    exec (.rqW (s.cfg.row r).address w crc) s = regWrite r w (enter .validate (accept s)) := by
  have hat := writeAt_row h hr hw
  rcases execRqW_cases (s.cfg.row r).address w crc s with ⟨ha, -⟩ | ⟨ha, -⟩ | ⟨q, ha, -, -, he⟩ | ⟨ha, -⟩ <;>
    rw [hat] at ha <;> cases ha
  · exact absurd rfl hi
  · exact absurd rfl hf
  · exact he

/-- Settles O42: the map gives a frame's register by address and length; the rest is the builder's. -/
theorem readFrameIsTheReadItNames : Obligations.ReadFrameIsTheReadItNames := by
  refine ⟨fun i r hi s crc hc => ?_, fun _ _ _ => rfl, fun addr count crc s h0 hno => ?_⟩
  · have hread : exec (.rqR (s.cfg.row r).address (s.cfg.row r).wordCount crc) s = regRead r s :=
      exec_rqR_row crc hc ((readable_iff_mem_readOps r).2 ⟨i, hi⟩)
    refine ⟨hread.trans (exec_read hi s).symm, fun hd ht => ?_⟩
    obtain ⟨t, hrun, hone⟩ := regRead_oneTransaction hc hd ht
    exact ⟨t, hread.trans hrun, hone.calls, hone.presents⟩
  · refine ⟨_, execRqR_none crc h0 (readAt_none hno), ?_⟩
    exact buildOnly_checksumPrimitive (buildRead addr count) s

/-- Settles O43: the map gives a frame's register by address, `sendsWord` the words its write sends; the rest is the
builder's. -/
theorem writeFrameIsTheWriteItNames : Obligations.WriteFrameIsTheWriteItNames := by
  intro addr w crc s hc
  refine ⟨?interval, ?filter, ?mode, ?trigger, ?plain, fun hother hmode htrigger => ?built⟩
  case interval => rintro rfl; exact exec_rqW_interval w crc hc
  case filter => rintro rfl; exact exec_rqW_filter w crc hc
  case mode =>
    rintro rfl
    have hrow (hw : w = s.cfg.modeContinuous ∨ w = s.cfg.modeSingleShot) :
        exec (.rqW (s.cfg.row .mode).address w crc) s = regWrite .mode w (enter .validate (accept s)) :=
      exec_rqW_row crc hc rfl (by decide) (by decide) ((sendsWord_mode s.cfg w).2 hw)
    exact ⟨fun h => (hrow (.inl h)).trans (by rw [h]; rfl), fun h => (hrow (.inr h)).trans (by rw [h]; rfl)⟩
  case trigger =>
    rintro rfl hw
    refine (exec_rqW_row crc hc rfl (by decide) (by decide) ((sendsWord_trigger s.cfg w).2 hw)).trans ?_
    rw [hw]; rfl
  case plain =>
    rintro r hr rfl ht
    have hkind : r.writable = true ∧ r ≠ .interval ∧ r ≠ .filter ∧ r ≠ .mode ∧ r ≠ .trigger := by
      revert r; decide
    obtain ⟨hwrite, hi, hf, hm, htr⟩ := hkind
    rw [exec_rqW_row crc hc hwrite hi hf (sendsWord_other s.cfg w hm htr)]
    exact regWrite_writeRan r w hc ht
  case built =>
    refine ⟨_, execRqW_none crc (writeAt_none hother hmode htrigger), ?_⟩
    exact buildOnly_checksumPrimitive (buildWrite addr w) s

end Sys2Proof.Machine
end

section
/-! PROOFS. What a step can do, what it leaves alone, and the invariant it keeps (O5, O6, O7, O9, O10, O11, O14, O46,
O49). -/

namespace Sys2Proof.Machine

open Sys2Proof.Safety

/-! ### The moves of a step -/

theorem step_empty {s : State} (h : s.schedule = []) : step s = coreMove s := by simp [step, cycle, h]

theorem step_core {s : State} {ms : List Move} (h : s.schedule = .core :: ms) :
    step s = coreMove { s with schedule := ms } := by simp [step, cycle, h]

theorem step_present {s : State} {e : Encoded} {ms : List Move} (h : s.schedule = .present e :: ms) :
    step s = .next { s with schedule := ms, cmdPort := s.cmdPort ++ [e] } := by simp [step, cycle, h]

theorem step_device {s : State} {f : Bool} {c : Drift} {ms : List Move} (h : s.schedule = .device f c :: ms) :
    step s = .next { s with schedule := ms, dev := s.dev.ownMove f c } := by simp [step, cycle, h]

theorem step_otherUser {s : State} {f : List Byte} {c : Drift} {ms : List Move}
    (h : s.schedule = .otherUser f c :: ms) :
    step s = .next { s with schedule := ms, dev := otherUserMove f c s } := by simp [step, cycle, h]

theorem step_reset {s : State} {x : Bool} {c : Drift} {ms : List Move} (h : s.schedule = .reset x c :: ms) :
    step s = .next (resetCore x c { s with schedule := ms }) := by simp [step, cycle, h]

/-- Whose move a step was, and what it did. -/
theorem step_next {s t : State} (h : step s = .next t) :
    (∃ ms, (s.schedule = [] ∧ ms = [] ∨ s.schedule = .core :: ms) ∧ coreMove { s with schedule := ms } = .next t) ∨
    (∃ e ms, s.schedule = .present e :: ms ∧ t = { s with schedule := ms, cmdPort := s.cmdPort ++ [e] }) ∨
    (∃ f c ms, s.schedule = .device f c :: ms ∧ t = { s with schedule := ms, dev := s.dev.ownMove f c }) ∨
    (∃ f c ms, s.schedule = .otherUser f c :: ms ∧ t = { s with schedule := ms, dev := otherUserMove f c s }) ∨
    (∃ x c ms, s.schedule = .reset x c :: ms ∧ t = resetCore x c { s with schedule := ms }) := by
  match hs : s.schedule with
  | [] =>
    have hself : { s with schedule := [] } = s := by rw [← hs]
    exact .inl ⟨[], .inl ⟨rfl, rfl⟩, by rwa [hself, ← step_empty hs]⟩
  | .core :: ms => exact .inl ⟨ms, .inr rfl, by rwa [← step_core hs]⟩
  | .present e :: ms => rw [step_present hs] at h; cases h; exact .inr (.inl ⟨e, ms, rfl, rfl⟩)
  | .device f c :: ms => rw [step_device hs] at h; cases h; exact .inr (.inr (.inl ⟨f, c, ms, rfl, rfl⟩))
  | .otherUser f c :: ms => rw [step_otherUser hs] at h; cases h; exact .inr (.inr (.inr (.inl ⟨f, c, ms, rfl, rfl⟩)))
  | .reset x c :: ms => rw [step_reset hs] at h; cases h; exact .inr (.inr (.inr (.inr ⟨x, c, ms, rfl, rfl⟩)))

/-! ### The core's move -/

/-- In IDLE the oldest command presented is decoded and run (R40). -/
theorem coreMove_idle {s : State} {e : Encoded} {rest : List Encoded} (hp : s.phase = .idle)
    (hc : s.cmdPort = e :: rest) :
    (∀ i, decode e = .ok i → coreMove s = exec i { s with cmdPort := rest }) ∧
      ∀ x, decode e = .error x → coreMove s = .refused (.undecodable x) := by
  constructor <;> intro _ hd <;> simp [coreMove, hp, hc, hd]

theorem coreMove_transact {s : State} {p : Pending} (hp : s.phase = .transact) (h : s.pending = some p) :
    coreMove s = .next (await p s) := by simp [coreMove, hp, h]

theorem coreMove_done {s : State} (hp : s.phase = .done) : coreMove s = .next (release s) := by
  simp [coreMove, hp]

/-- What the core's move can be, if it answers a next state: resting, running a command, waiting, or handing over. -/
theorem coreMove_next {s t : State} (h : coreMove s = .next t) :
    (s.phase = .idle ∧ s.cmdPort = [] ∧ t = s) ∨
    (s.phase = .idle ∧ ∃ e rest i, s.cmdPort = e :: rest ∧ decode e = .ok i ∧
      exec i { s with cmdPort := rest } = .next t) ∨
    (s.phase = .transact ∧ ∃ p, s.pending = some p ∧ t = await p s) ∨
    (s.phase = .done ∧ t = release s) := by
  cases hp : s.phase with
  | idle =>
    cases hc : s.cmdPort with
    | nil => simp only [coreMove, hp, hc] at h; cases h; exact .inl ⟨rfl, rfl, rfl⟩
    | cons e rest =>
      obtain ⟨hok, herr⟩ := coreMove_idle hp hc
      cases hd : decode e with
      | error x => rw [herr x hd] at h; cases h
      | ok i => rw [hok i hd, hp] at h; exact .inr (.inl ⟨rfl, e, rest, i, rfl, hd, h⟩)
  | transact =>
    cases hq : s.pending with
    | none => simp [coreMove, hp, hq] at h
    | some p => rw [coreMove_transact hp hq] at h; cases h; exact .inr (.inr (.inl ⟨rfl, p, rfl, rfl⟩))
  | done => rw [coreMove_done hp] at h; cases h; exact .inr (.inr (.inr ⟨rfl, rfl⟩))
  | validate => simp [coreMove, hp] at h
  | build => simp [coreMove, hp] at h
  | check => simp [coreMove, hp] at h
  | decode => simp [coreMove, hp] at h

/-! ### The handshake -/

/-- Settles O9: the schedule gives the core its turn, and the idle core decodes the oldest command. -/
theorem stepRunsTheDecodedCommand : Obligations.StepRunsTheDecodedCommand := by
  intro s e rest hp hc
  refine ⟨fun i hd => ⟨fun hs => ?_, fun ms hs => ?_⟩, fun x hd => ⟨fun hs => ?_, fun ms hs => ?_⟩⟩
  · rw [step_empty hs]
    exact (coreMove_idle hp hc).1 i hd
  · rw [step_core hs]
    exact (coreMove_idle (s := { s with schedule := ms }) hp hc).1 i hd
  · rw [step_empty hs]
    exact (coreMove_idle hp hc).2 x hd
  · rw [step_core hs]
    exact (coreMove_idle (s := { s with schedule := ms }) hp hc).2 x hd

/-- Settles O10: the move of the core in DONE is `release`. -/
theorem takenResultReturnsToIdle : Obligations.TakenResultReturnsToIdle :=
  fun _ hp hs => (step_empty hs).trans (coreMove_done hp)

/-- Settles O11: the host's move puts the item at the end of the port. -/
theorem presentedCommandWaits : Obligations.PresentedCommandWaits := fun _ _ _ hs => step_present hs

/-! ### What no operation and no step writes -/

theorem await_keepsPort (p : Pending) (s : State) : KeepsPort s (await p s) := by
  cases h : s.turns with
  | nil => rw [await_nil p h]; exact ⟨rfl, rfl, rfl⟩
  | cons t ts => rw [await_cons p h]; constructor <;> simp

/-- Settles O49: neither the preparation of a command nor its transaction writes the configuration or the port. -/
theorem operationsKeepPortAndConfiguration : Obligations.OperationsKeepPortAndConfiguration := by
  intro i s t h
  rcases exec_next h with ⟨r, s', hr, -, -, rfl⟩ | ⟨p, s', hr, -, -, -, rfl⟩
  · exact ⟨hr.cfg, hr.cmdPort, hr.schedule⟩
  · constructor <;> simp [hr.cfg, hr.cmdPort, hr.schedule]

theorem coreMove_cfg {s t : State} (h : coreMove s = .next t) : t.cfg = s.cfg := by
  rcases coreMove_next h with ⟨-, -, rfl⟩ | ⟨-, e, rest, i, -, -, hx⟩ | ⟨-, p, -, rfl⟩ | ⟨-, rfl⟩
  · rfl
  · exact (operationsKeepPortAndConfiguration i _ t hx).cfg
  · exact (await_keepsPort p s).cfg
  · rfl

/-- Settles O14: of the moves only the core's runs an operation, and that leaves the configuration. -/
theorem configurationIsConstant : Obligations.ConfigurationIsConstant := by
  intro s t h
  rcases step_next h with ⟨ms, -, hc⟩ | ⟨e, ms, -, rfl⟩ | ⟨f, c, ms, -, rfl⟩ | ⟨f, c, ms, -, rfl⟩ | ⟨x, c, ms, -, rfl⟩
  · exact (coreMove_cfg hc :)
  all_goals rfl

/-! ### The phases a command passes through -/

/-- The phases recorded never move backward, and the last one is the phase the core stands in. -/
def PathReachesPhase (s : State) : Prop := Forward s.path ∧ s.path.getLast? = some s.phase

/-- A path goes on to later phases. -/
theorem forward_append {path tail : List Phase} {q : Phase} (h : Forward path) (hl : path.getLast? = some q)
    (ht : Forward (q :: tail)) : Forward (path ++ tail) := by
  obtain ⟨init, rfl⟩ := List.getLast?_eq_some_iff.1 hl
  simp only [Forward, List.map_append, List.map_cons, List.map_nil, List.pairwise_append, List.pairwise_cons,
    List.append_assoc, List.mem_singleton, List.singleton_append] at h ht ⊢
  obtain ⟨hinit, -, hq⟩ := h
  refine ⟨hinit, ht, fun a ha b hb => ?_⟩
  have haq : a < q.rank := hq a ha _ rfl
  rcases List.mem_cons.1 hb with rfl | hb
  · exact haq
  · exact haq.trans (ht.1 b hb)

theorem complete_pathReachesPhase (r : Res) {s : State} (h : s.path = [] ∨ s.path = [.validate]) :
    PathReachesPhase (complete r s) := by
  rcases h with h | h <;> simp [PathReachesPhase, Forward, h, Phase.rank]

theorem startCall_pathReachesPhase (p : Pending) {s : State} (h : s.path = [.validate, .build]) :
    PathReachesPhase (startCall p s) := by
  simp [PathReachesPhase, Forward, h, Phase.rank]

/-- From TRANSACT an answer leads through CHECK and DECODE, or past them, to DONE. -/
theorem receive_pathReachesPhase (p : Pending) (a : Option (List Byte)) {s : State} (h : PathReachesPhase s)
    (hp : s.phase = .transact) : PathReachesPhase (receive p a s) := by
  obtain ⟨hf, hl⟩ := h
  rw [hp] at hl
  have hdone : (receive p a s).phase = .done := receive_phase p a s
  rcases receive_path p a s with hr | hr | hr <;> rw [PathReachesPhase, hdone, hr]
  · exact ⟨forward_append hf hl (by decide), by simp⟩
  · exact ⟨forward_append hf hl (by decide), by simp⟩
  · exact ⟨forward_append hf hl (by decide), by simp⟩

theorem await_pathReachesPhase (p : Pending) {s : State} (h : PathReachesPhase s) (hp : s.phase = .transact) :
    PathReachesPhase (await p s) := by
  cases hs : s.turns with
  | nil => rwa [await_nil p hs]
  | cons t ts => rw [await_cons p hs]; exact receive_pathReachesPhase p _ h hp

/-- Settles O46: an operation ends at once or goes from BUILD into its transaction, and an answer leads on from there. -/
theorem phasesNeverMoveBackward : Obligations.PhasesNeverMoveBackward := by
  intro i s t h
  rcases exec_next h with ⟨r, s', -, -, hpath, rfl⟩ | ⟨p, s', -, hpath, -, -, rfl⟩
  · exact complete_pathReachesPhase r hpath
  · exact await_pathReachesPhase p (startCall_pathReachesPhase p hpath) rfl

/-! ### The invariant -/

/-- The invariant does not speak of the command port and the schedule. -/
theorem machineInv_setPort {s : State} (h : MachineInv s) (ms : List Move) (q : List Encoded) :
    MachineInv { s with schedule := ms, cmdPort := q } := { h with }

/-- Of the device the invariant asks the canonical form alone. -/
theorem machineInv_setDev {s : State} (h : MachineInv s) (ms : List Move) {d : Device}
    (hd : Memory.wf d.content = true) : MachineInv { s with schedule := ms, dev := d } := { h with memory := hd }

theorem otherUserMove_wf {s : State} (f : List Byte) (c : Drift) (h : Memory.wf s.dev.content = true) :
    Memory.wf (otherUserMove f c s).content = true := by
  unfold otherUserMove
  split
  · exact h
  · exact receive_wf h

theorem abandoned_wf {s : State} (x : Bool) (c : Drift) (h : Memory.wf s.dev.content = true) :
    Memory.wf (abandoned x c s).content = true := by
  unfold abandoned
  split
  · exact h
  · exact answerTurn_wf _ _ h

/-- After the reset input the invariant rests on the configuration and the device alone. -/
theorem machineInv_resetCore {s : State} (x : Bool) (c : Drift) (hd : 20 ≤ s.cfg.rxbufDepth)
    (hm : Memory.wf s.dev.content = true) : MachineInv (resetCore x c s) where
  visible := .inl rfl
  inFlight := by simp
  bus := by simp
  result := by simp
  oneCall := by simp
  calls := by simp
  path := ⟨.nil, by simp⟩
  engine := rfl
  rx := ⟨rfl, Nat.zero_le _⟩
  depth := hd
  memory := abandoned_wf x c hm

theorem machineInv_release {s : State} (h : MachineInv s) (hp : s.phase = .done) : MachineInv (release s) where
  visible := .inl rfl
  inFlight := by simpa [hp] using h.inFlight
  bus := by simpa [hp] using h.bus
  result := by simp
  oneCall := h.oneCall
  calls := h.calls
  path := ⟨h.path.1, by simp⟩
  engine := h.engine
  rx := h.rx
  depth := h.depth
  memory := h.memory

/-- A command that ends at once. -/
theorem machineInv_complete {s s' : State} (h : MachineInv s) (hr : Ready s s') (r : Res)
    (hpath : s'.path = [] ∨ s'.path = [.validate]) : MachineInv (complete r s') where
  visible := .inr (.inr rfl)
  inFlight := by simp [hr.pending]
  bus := by simp [hr.busHeld]
  result := by simp
  oneCall := by simp [hr.pending]
  calls := by simp [hr.calls]
  path := (complete_pathReachesPhase r hpath).imp_right fun hl _ => hl
  engine := hr.bitCnt h.engine
  rx := by simpa [hr.rxbuf, hr.rxlen, hr.cfg] using h.rx
  depth := by simpa [hr.cfg] using h.depth
  memory := by simpa [hr.dev] using h.memory

/-- A command whose call has gone out. -/
theorem machineInv_startCall {s s' : State} {p : Pending} (h : MachineInv s) (hr : Ready s s')
    (hpath : s'.path = [.validate, .build])
    (haddr : (p.call.addr = Config.periphAddr ∧ p.call.wbytes = s'.txbuf.bytes) ∨ p.call.addr = Config.bulkAddr)
    (hn : p.call.n ≤ s.cfg.rxbufDepth) : MachineInv (startCall p s') where
  visible := .inr (.inl rfl)
  inFlight := by simp
  bus := by simp
  result := by simp [hr.res]
  oneCall q hq := by
    cases Option.some.inj hq
    refine ⟨by simp [hr.calls], by simpa [hr.cfg] using hn, fun hperiph => ?_⟩
    rcases haddr with ⟨-, hbytes⟩ | hbulk
    · exact hbytes
    · exact absurd (hperiph.symm.trans hbulk) (by decide)
  calls := by simpa [hr.calls] using haddr.imp_left And.left
  path := (startCall_pathReachesPhase p hpath).imp_right fun hl _ => hl
  engine := hr.bitCnt h.engine
  rx := by simpa [hr.rxbuf, hr.rxlen, hr.cfg] using h.rx
  depth := by simpa [hr.cfg] using h.depth
  memory := by simpa [hr.dev] using h.memory

/-- The answer to the transaction in flight ends the command. -/
theorem machineInv_receive {s : State} {p : Pending} (h : MachineInv s) (hp : s.pending = some p)
    (a : Option (List Byte)) (ts : List Turn) {d : Device} (hd : Memory.wf d.content = true) :
    MachineInv (receive p a (endCall ts d s)) := by
  have hphase : s.phase = .transact := h.inFlight.1 (by simp [hp])
  have hdone : (receive p a (endCall ts d s)).phase = .done := receive_phase ..
  refine ⟨.inr (.inr hdone), ?inFlight, ?bus, ?result, ?oneCall, ?calls, ?path, ?engine, ?rx, ?depth, ?memory⟩
  case inFlight => simp [hdone]
  case bus => simp [hdone]
  case result => simp [hdone, receive_res]
  case oneCall => simp
  case calls => simpa using h.calls
  case path =>
    have hpath : PathReachesPhase (endCall ts d s) := ⟨h.path.1, h.path.2 (by simp [hphase])⟩
    exact (receive_pathReachesPhase p a hpath hphase).imp_right fun hl _ => hl
  case engine => exact receive_bitCnt p a _ h.engine
  case rx =>
    obtain ⟨-, hfits, -⟩ := h.oneCall p hp
    rcases receive_rx p a (endCall ts d s) with ⟨hbuf, hlen⟩ | ⟨r, -, hr, hbuf, hlen⟩ <;> rw [hbuf, hlen, receive_cfg]
    · exact h.rx
    · exact ⟨hr.symm, hfits⟩
  case depth => simpa using h.depth
  case memory => simpa using hd

theorem machineInv_await {s : State} {p : Pending} (h : MachineInv s) (hp : s.pending = some p) :
    MachineInv (await p s) := by
  cases hs : s.turns with
  | nil => rwa [await_nil p hs]
  | cons t ts => rw [await_cons p hs]; exact machineInv_receive h hp _ ts (answerTurn_wf p.call t h.memory)

theorem machineInv_exec {i : Instr} {s t : State} (h : MachineInv s) (hx : exec i s = .next t) : MachineInv t := by
  rcases exec_next hx with ⟨r, s', hr, -, hpath, rfl⟩ | ⟨p, s', hr, hpath, haddr, hn, rfl⟩
  · exact machineInv_complete h hr r hpath
  · exact machineInv_await (machineInv_startCall h hr hpath haddr (hn h.depth)) rfl

theorem machineInv_coreMove {s t : State} (h : MachineInv s) (hm : coreMove s = .next t) : MachineInv t := by
  rcases coreMove_next hm with ⟨-, -, rfl⟩ | ⟨-, e, rest, i, -, -, hx⟩ | ⟨-, p, hp, rfl⟩ | ⟨hp, rfl⟩
  · exact h
  · exact machineInv_exec (machineInv_setPort h s.schedule rest) hx
  · exact machineInv_await h hp
  · exact machineInv_release h hp

/-- Settles O7: one lemma per move, the core's split into the start, the wait and the end of a command. -/
theorem stepKeepsTheInvariant : Obligations.StepKeepsTheInvariant := by
  intro s t h hs
  rcases step_next hs with ⟨ms, -, hc⟩ | ⟨e, ms, -, rfl⟩ | ⟨f, c, ms, -, rfl⟩ | ⟨f, c, ms, -, rfl⟩ | ⟨x, c, ms, -, rfl⟩
  · exact machineInv_coreMove (machineInv_setPort h ms s.cmdPort) hc
  · exact machineInv_setPort h ms _
  · exact machineInv_setDev h ms (ownMove_wf f c h.memory)
  · exact machineInv_setDev h ms (otherUserMove_wf f c h.memory)
  · exact machineInv_resetCore x c h.depth h.memory

/-- Settles O5: two fields of the reset state, read off. -/
theorem resetIsIdleWithNoResult : Obligations.ResetIsIdleWithNoResult := ⟨rfl, rfl⟩

/-- Settles O6: the state after reset is what the reset input makes of it. -/
theorem resetMeetsTheInvariant : Obligations.ResetMeetsTheInvariant :=
  machineInv_resetCore (s := State.reset) false {} (by decide) rfl

end Sys2Proof.Machine
end

section
/-! PROOFS. The encodings of operations and statuses, and the read that does not fit its buffer (O2, O15, O34). -/

namespace Sys2Proof.Machine

/-- Settles O2: only the register number and the two frames need a fact about the encoded form; the other records
decode by evaluation. -/
theorem decodeInvertsEncode : Obligations.DecodeInvertsEncode := by
  intro i hi
  cases i with
  | lookup r => exact Laws.RoundTrip.lookup r hi
  | rqR addr count crc => exact Laws.RoundTrip.rqR addr count crc hi
  | rqW addr value crc => exact Laws.RoundTrip.rqW addr value crc hi
  | _ => rfl

/-- The six statuses in the order of their numbers (R27). -/
def Status.all : List Status :=
  [.success, .notAcknowledged, .checksumError, .registerWriteMismatch, .invalidIntervalInput, .invalidFilterInput]

theorem Status.mem_all (a : Status) : a ∈ Status.all := by cases a <;> decide

/-- The strings of a conforming configuration are pairwise different (R7). -/
theorem strings_nodup_of_conforming {c : Config} (h : c.Conforming) : (Status.all.map (Status.string c)).Nodup := by
  obtain ⟨-, -, -, -, -, -, -, -, -, -, -, hstrings⟩ := h
  exact hstrings

/-- Settles O15: the strings are one-to-one because the configuration lists six different ones. -/
theorem statusNumbersAndStringsAreOneToOne : Obligations.StatusNumbersAndStringsAreOneToOne := by
  refine ⟨rfl, rfl, rfl, rfl, rfl, rfl, fun a => by cases a <;> decide, fun cfg hc a b hab => ?_⟩
  exact List.inj_on_of_nodup_map (strings_nodup_of_conforming hc) a.mem_all b.mem_all hab

/-- Settles O34: both forms are the generic read, which checks the reply's length against the buffer. -/
theorem readsTooLongForTheBufferAreRefused : Obligations.ReadsTooLongForTheBufferAreRefused := by
  intro i r hi s crc hc hd
  have hrefused : regRead r s = .refused .replyTooLong := regRead_refused hc hd
  have hreadable : r.readable = true := (readable_iff_mem_readOps r).2 ⟨i, hi⟩
  exact ⟨(exec_read hi s).trans hrefused, (exec_rqR_row crc hc hreadable).trans hrefused⟩

end Sys2Proof.Machine
end

section
/-! PROOFS. What the outcome of an operation depends on (O47, O48). The operands and the configuration settle whether an
operation is refused, ends at once, or makes which call: `Plan` names the six ways, and `planned_exec` says that every
operation follows one. Two states with the same configuration then run the same plan. -/

namespace Sys2Proof.Machine

open Sys2Proof.Safety

/-! ### Plans -/

/-- What an operation is going to do. -/
inductive Plan
  /-- It is refused. -/
  | refuse (x : Refusal)
  /-- A primitive that does not use the Checksum Engine. -/
  | answer (r : Res)
  /-- A primitive that runs the Checksum Engine over a payload. -/
  | compute (body : List Byte) (r : Res)
  /-- A client operation that fails its validation. -/
  | reject (f : Failure)
  /-- A client operation with a framed request. -/
  | framed (q : Request) (n : Nat) (x : Expect)
  /-- The bulk read. -/
  | bulk (c : Call)

/-- The plan, run from a state. -/
def Plan.run (s : State) : Plan → Host.Outcome State Fault Refusal
  | .refuse x => .refused x
  | .answer r => .next (complete r (accept s))
  | .compute body r => .next (complete r (runEngine body (accept s)))
  | .reject f => .next (raise f (enter .validate (accept s)))
  | .framed q n x => .next (Machine.framed q n x (enter .validate (accept s)))
  | .bulk c => .next (transact ⟨c, .bulk⟩ (enter .build (enter .validate (accept s))))

/-- From every state with the configuration `c`, the operation `f` follows one and the same plan. -/
def Planned (c : Config) (f : State → Host.Outcome State Fault Refusal) : Prop :=
  ∃ π : Plan, ∀ s, s.cfg = c → f s = π.run s

theorem Planned.of_eq {c : Config} {f g : State → Host.Outcome State Fault Refusal} (hg : Planned c g)
    (h : ∀ s, s.cfg = c → f s = g s) : Planned c f := by
  obtain ⟨π, hπ⟩ := hg
  exact ⟨π, fun s hs => (h s hs).trans (hπ s hs)⟩

theorem planned_regRead (c : Config) (r : RegName) : Planned c (regRead r) := by
  by_cases hok : c.rowOk r = false
  · exact ⟨.refuse .mapEntryInvalid, by rintro s rfl; simp [regRead, hok, Plan.run]⟩
  by_cases hfits : c.rxbufDepth < replyLen (c.row r).wordCount
  · exact ⟨.refuse .replyTooLong, by rintro s rfl; simp [regRead, Config.entry, hok, hfits, Plan.run]⟩
  · refine ⟨.framed (buildRead (c.row r).address (c.row r).wordCount) (replyLen (c.row r).wordCount)
      (.frame (c.row r).kind), ?_⟩
    rintro s rfl
    simp [regRead, Config.entry, hok, hfits, Plan.run]

theorem planned_regWrite (c : Config) (r : RegName) (w : Word) :
    Planned c fun s => regWrite r w (enter .validate (accept s)) := by
  by_cases hok : c.rowOk r = false
  · exact ⟨.refuse .mapEntryInvalid, by rintro s rfl; simp [regWrite, hok, Plan.run]⟩
  · refine ⟨.framed (buildWrite (c.row r).address w) Config.reqLen .echo, ?_⟩
    rintro s rfl
    simp [regWrite, Config.entry, hok, Plan.run]

theorem planned_writeValue (c : Config) (r : RegName) (v : BitVec 32) : Planned c (writeValue r v) := by
  cases hv : encodeValue (c.row r).kind v with
  | none => exact ⟨.refuse .valueOutOfRange, by rintro s rfl; simp [writeValue, Config.entry, hv, Plan.run]⟩
  | some w => exact (planned_regWrite c r w).of_eq (by rintro s rfl; simp [writeValue, Config.entry, hv])

theorem planned_validatedWrite (c : Config) (r : RegName) (f : Failure) (b : Bool) (v : BitVec 32) :
    Planned c (validatedWrite r f b v) := by
  cases b with
  | false => exact ⟨.reject f, fun _ _ => rfl⟩
  | true => exact (planned_regWrite c r (narrow16 v)).of_eq fun _ _ => rfl

theorem planned_buildOnly (c : Config) (q : Request) : Planned c fun s => .next (buildOnly q s) :=
  ⟨.compute q.body (.ok (.frame q.bytes)), fun _ _ => rfl⟩

theorem planned_execPrsrd (c : Config) (buf : List Byte) (n : Nat) : Planned c (execPrsrd buf n) := by
  by_cases hok : prsrdOperandsOk buf n = false
  · exact ⟨.refuse .frameLengthOperand, fun s _ => by simp [execPrsrd, hok, Plan.run]⟩
  cases hp : parseRead buf n with
  | ok data =>
    exact ⟨.compute (replyBody buf n) (.ok (.bytes data)), fun s _ => by simp [execPrsrd, hok, hp, Plan.run, succeed]⟩
  | error f =>
    exact ⟨.compute (replyBody buf n) (.err f), fun s _ => by simp [execPrsrd, hok, hp, Plan.run, raise]⟩

theorem planned_execPrswr (c : Config) (buf buf2 : List Byte) : Planned c (execPrswr buf buf2) := by
  cases hp : parseWrite buf buf2 with
  | ok => exact ⟨.answer (.ok .unit), fun s _ => by simp [execPrswr, hp, Plan.run, succeed]⟩
  | error f => exact ⟨.answer (.err f), fun s _ => by simp [execPrswr, hp, Plan.run, raise]⟩

theorem planned_execBldrd (c : Config) (a b : Word) : Planned c (execBldrd a b) := by
  by_cases hb : b = 0#16
  · exact ⟨.refuse .wordCountZero, fun s _ => by simp [execBldrd, hb, Plan.run]⟩
  · exact (planned_buildOnly c (buildRead a b)).of_eq fun s _ => by simp [execBldrd, hb]

theorem planned_execWrregMode (c : Config) (v : BitVec 32) : Planned c (execWrregMode v) := by
  by_cases h0 : v = 0#32
  · exact (planned_regWrite c .mode c.modeContinuous).of_eq (by rintro s rfl; simp [execWrregMode, h0])
  by_cases h1 : v = 1#32
  · exact (planned_regWrite c .mode c.modeSingleShot).of_eq (by rintro s rfl; simp [execWrregMode, h1])
  · exact ⟨.refuse .modeOperand, fun s _ => by simp [execWrregMode, h0, h1, Plan.run]⟩

theorem planned_execRqR (c : Config) (addr count crc : Word) : Planned c (execRqR addr count crc) := by
  by_cases h0 : count = 0#16
  · exact ⟨.refuse .wordCountZero, fun s _ => by simp [execRqR, h0, Plan.run]⟩
  cases hr : readAt c addr count with
  | none => exact (planned_buildOnly c (buildRead addr count)).of_eq (by rintro s rfl; exact execRqR_none crc h0 hr)
  | some r => exact (planned_regRead c r).of_eq (by rintro s rfl; exact execRqR_some crc h0 hr)

theorem planned_execRqW (c : Config) (addr w crc : Word) : Planned c (execRqW addr w crc) := by
  cases hr : writeAt c addr w with
  | none => exact (planned_buildOnly c (buildWrite addr w)).of_eq (by rintro s rfl; exact execRqW_none crc hr)
  | some r =>
    by_cases hi : r = .interval
    · subst hi
      refine (planned_validatedWrite c .interval .invalidIntervalInput (intervalInRange (w.setWidth 32))
        (w.setWidth 32)).of_eq ?_
      rintro s rfl
      simpa [hr] using execRqW_cases addr w crc s
    by_cases hf : r = .filter
    · subst hf
      refine (planned_validatedWrite c .filter .invalidFilterInput (filterInRange (w.setWidth 32))
        (w.setWidth 32)).of_eq ?_
      rintro s rfl
      simpa [hr] using execRqW_cases addr w crc s
    · refine (planned_regWrite c r w).of_eq ?_
      rintro s rfl
      simpa [hr, hi, hf] using execRqW_cases addr w crc s

/-- Every operation follows a plan that its operands and the configuration settle. -/
theorem planned_exec (c : Config) (i : Instr) : Planned c (exec i) := by
  by_cases hread : ∃ r, (i, r) ∈ readOps
  · obtain ⟨r, hr⟩ := hread
    exact (planned_regRead c r).of_eq fun s _ => exec_read hr s
  cases i with
  | crc16 buf => exact ⟨.compute buf (.ok (.u16 (checksum16 buf))), fun _ _ => rfl⟩
  | fdec b0 b1 b2 b3 => exact ⟨.answer (.ok (.f64 (floatBits64 b0 b1 b2 b3))), fun _ _ => rfl⟩
  | bldrd a b => exact planned_execBldrd c a b
  | prsrd buf n => exact planned_execPrsrd c buf n
  | bldwr a vh vl => exact planned_buildOnly c (buildWrite a (join16 vh vl))
  | prswr buf buf2 => exact planned_execPrswr c buf buf2
  | lookup r => exact ⟨.answer (.ok (.entry (c.entry r))), by rintro s rfl; rfl⟩
  | wrregInterval v => exact planned_validatedWrite c .interval _ _ v
  | wrregFilter v => exact planned_validatedWrite c .filter _ _ v
  | wrregOffset v => exact planned_writeValue c .offset v
  | wrregCust1 v => exact planned_writeValue c .cust1 v
  | wrregCust2 v => exact planned_writeValue c .cust2 v
  | wrregMode v => exact planned_execWrregMode c v
  | wrregTrigger => exact (planned_regWrite c .trigger c.trigVal).of_eq (by rintro s rfl; rfl)
  | getall => exact ⟨.bulk ⟨Config.bulkAddr, c.bulkCmd, Config.bulkLen⟩, by rintro s rfl; rfl⟩
  | rqR addr count crc => exact planned_execRqR c addr count crc
  | rqW addr w crc => exact planned_execRqW c addr w crc
  | _ => exact absurd (by simp [readOps]) hread

/-! ### The answer alone decides -/

/-- What the host and the bus see of a command: its result, its calls and the phases it passed through. -/
structure SameOutcome (s₁ s₂ : State) : Prop where
  res : s₂.res = s₁.res
  calls : s₂.calls = s₁.calls
  path : s₂.path = s₁.path

/-- CHECK and DECODE look at the reply, the configuration and, for an echo, the frame sent. -/
theorem checkReply_sameOutcome (x : Expect) (r : List Byte) {s₁ s₂ : State} (hcfg : s₂.cfg = s₁.cfg)
    (hsent : x = .echo → s₂.txbuf = s₁.txbuf) (hcalls : s₂.calls = s₁.calls) (hpath : s₂.path = s₁.path) :
    SameOutcome (checkReply x r s₁) (checkReply x r s₂) := by
  cases x with
  | frame kind =>
    cases hp : parseRead r r.length <;> constructor <;> simp [checkReply, hp, hcalls, hpath]
  | echo =>
    cases hp : parseWrite s₁.txbuf.bytes r <;> constructor <;> simp [checkReply, hsent rfl, hp, hcalls, hpath]
  | bulk => constructor <;> simp [checkReply, hcfg, hcalls, hpath]

theorem receive_sameOutcome (p : Pending) (a : Option (List Byte)) {s₁ s₂ : State} (hcfg : s₂.cfg = s₁.cfg)
    (hsent : p.expect = .echo → s₂.txbuf = s₁.txbuf) (hcalls : s₂.calls = s₁.calls) (hpath : s₂.path = s₁.path) :
    SameOutcome (receive p a s₁) (receive p a s₂) := by
  cases a with
  | none => constructor <;> simp [receive_fail, hcalls, hpath]
  | some r =>
    by_cases hl : r.length = p.call.n
    · rw [receive_reply p _ hl, receive_reply p _ hl]
      exact checkReply_sameOutcome p.expect r hcfg hsent hcalls (by simp [hpath])
    · rw [receive_wrongLength p _ hl, receive_wrongLength p _ hl]
      constructor <;> simp [hcalls, hpath]

/-- The same call made from two states, with the same scripted answer. -/
theorem transact_sameOutcome (p : Pending) {s₁ s₂ : State} {answer : Option (List Byte)} {x₁ x₂ : Bool}
    {c₁ c₂ : Drift} {ts₁ ts₂ : List Turn} (ht₁ : s₁.turns = .scripted answer x₁ c₁ :: ts₁)
    (ht₂ : s₂.turns = .scripted answer x₂ c₂ :: ts₂) (hcfg : s₂.cfg = s₁.cfg)
    (hsent : p.expect = .echo → s₂.txbuf = s₁.txbuf) (hcalls : s₂.calls = s₁.calls) (hpath : s₂.path = s₁.path) :
    SameOutcome (transact p s₁) (transact p s₂) := by
  rw [transact_cons p ht₁, transact_cons p ht₂]
  exact receive_sameOutcome p answer hcfg hsent (by simp [hcalls]) (by simp [hpath])

/-- One plan, run from two states with the same configuration and the same scripted answer. -/
theorem Plan.run_sameOutcome (π : Plan) {s₁ s₂ : State} {answer : Option (List Byte)} {x₁ x₂ : Bool}
    {c₁ c₂ : Drift} {ts₁ ts₂ : List Turn} (ht₁ : s₁.turns = .scripted answer x₁ c₁ :: ts₁)
    (ht₂ : s₂.turns = .scripted answer x₂ c₂ :: ts₂) (hcfg : s₂.cfg = s₁.cfg) {t₁ : State}
    (h : π.run s₁ = .next t₁) : ∃ t₂, π.run s₂ = .next t₂ ∧ SameOutcome t₁ t₂ := by
  cases π with
  | refuse x => cases h
  | answer r => cases h; exact ⟨_, rfl, rfl, rfl, rfl⟩
  | compute body r => cases h; exact ⟨_, rfl, rfl, rfl, rfl⟩
  | reject f => cases h; exact ⟨_, rfl, rfl, rfl, rfl⟩
  | framed q n x => cases h; exact ⟨_, rfl, transact_sameOutcome _ ht₁ ht₂ hcfg (fun _ => rfl) rfl rfl⟩
  | bulk c => cases h; exact ⟨_, rfl, transact_sameOutcome _ ht₁ ht₂ hcfg nofun rfl rfl⟩

/-- Settles O47: both states run the plan of their configuration, and its outcome hangs on the answer alone. -/
theorem resultDependsOnAnswerOnly : Obligations.ResultDependsOnAnswerOnly := by
  intro i s₁ s₂ answer x₁ x₂ c₁ c₂ ts₁ ts₂ hcfg ht₁ ht₂
  obtain ⟨π, hπ⟩ := planned_exec s₁.cfg i
  rw [hπ s₁ rfl, hπ s₂ hcfg.symm]
  refine ⟨fun r hr => ?_, fun t₁ h => ?_⟩
  · cases π <;> cases hr
    rfl
  · obtain ⟨t₂, hrun, hout⟩ := π.run_sameOutcome ht₁ ht₂ hcfg.symm h
    exact ⟨t₂, hrun, hout.res, hout.calls, hout.path⟩

/-! ### Waiting for the answer -/

/-- The calls of a command do not depend on the answers at hand. -/
theorem Plan.run_calls_of_turns (π : Plan) (s : State) (ts : List Turn) {u : State}
    (h : π.run { s with turns := ts } = .next u) : ∃ t, π.run s = .next t ∧ t.calls = u.calls := by
  cases π with
  | refuse x => cases h
  | answer r => cases h; exact ⟨_, rfl, rfl⟩
  | compute body r => cases h; exact ⟨_, rfl, rfl⟩
  | reject f => cases h; exact ⟨_, rfl, rfl⟩
  | framed q n x => cases h; exact ⟨_, rfl, by simp [framed_eq]⟩
  | bulk c => cases h; exact ⟨_, rfl, by simp⟩

/-- `t` waits in TRANSACT for the answer to the one call of the command of `s`, which has touched neither the device nor
the receive buffer. -/
structure WaitsForAnswer (s t : State) : Prop where
  phase : t.phase = .transact
  bus : t.busHeld = true
  res : t.res = none
  oneCall : ∃ p, t.pending = some p ∧ t.calls = [p.call]
  dev : t.dev = s.dev
  rxbuf : t.rxbuf = s.rxbuf
  rxlen : t.rxlen = s.rxlen
  port : KeepsPort s t

theorem startCall_waitsForAnswer {s s' : State} (p : Pending) (h : Ready s s') : WaitsForAnswer s (startCall p s') where
  phase := rfl
  bus := rfl
  res := h.res
  oneCall := ⟨p, rfl, by simp [h.calls]⟩
  dev := h.dev
  rxbuf := h.rxbuf
  rxlen := h.rxlen
  port := ⟨h.cfg, h.cmdPort, h.schedule⟩

/-- The step of a waiting core is the rest of the transaction. -/
theorem step_startCall (p : Pending) {s : State} (h : s.schedule = []) :
    step (startCall p s) = .next (transact p s) :=
  (step_empty (s := startCall p s) h).trans (coreMove_transact (s := startCall p s) rfl rfl)

/-- Without an answer a transaction waits; with one it goes on as if the answer had been there. -/
theorem transact_waits {s s' : State} (p : Pending) (h : Ready s s') (hs : s.schedule = []) (hts : s.turns = []) :
    WaitsForAnswer s (transact p s') ∧
      ∀ ts, step { transact p s' with turns := ts } = .next (transact p { s' with turns := ts }) := by
  rw [transact_nil p (h.turns.trans hts)]
  refine ⟨startCall_waitsForAnswer p h, fun ts => ?_⟩
  exact step_startCall (s := { s' with turns := ts }) p (h.schedule.trans hs)

theorem ready_bulk (s : State) : Ready s (enter .build (enter .validate (accept s))) := by constructor <;> simp

/-- A plan with a call waits without an answer, and goes on with one as if it had been there. -/
theorem Plan.run_waits (π : Plan) {s t : State} (hs : s.schedule = []) (hts : s.turns = []) (h : π.run s = .next t)
    (hc : t.calls ≠ []) :
    WaitsForAnswer s t ∧ ∀ ts, step { t with turns := ts } = π.run { s with turns := ts } := by
  cases π with
  | refuse x => cases h
  | answer r => cases h; exact absurd rfl hc
  | compute body r => cases h; exact absurd rfl hc
  | reject f => cases h; exact absurd rfl hc
  | framed q n x => cases h; exact transact_waits (framedCall q n x) (ready_framed q s) hs hts
  | bulk c => cases h; exact transact_waits ⟨c, .bulk⟩ (ready_bulk s) hs hts

/-- Settles O48: with and without the answer the operation runs one plan, and a plan's transaction can be cut at its call. -/
theorem waitingChangesNothing : Obligations.WaitingChangesNothing := by
  intro i s hs hts
  obtain ⟨π, hπ⟩ := planned_exec s.cfg i
  have hwith (ts : List Turn) : exec i { s with turns := ts } = π.run { s with turns := ts } := hπ _ rfl
  rw [hπ s rfl]
  refine ⟨fun turn u hu => π.run_calls_of_turns s [turn] (by rwa [← hwith]), fun t ht hc => ?_⟩
  obtain ⟨hw, hstep⟩ := π.run_waits hs hts ht hc
  exact ⟨hw.phase, hw.bus, hw.res, hw.oneCall, hw.dev, hw.rxbuf, hw.rxlen, hw.port,
    fun turn => (hstep [turn]).trans (hwith [turn]).symm⟩

end Sys2Proof.Machine
end

section
/-! PROOFS. How the device takes a frame, by its kind and address (O59): the rules that the statements about its mode and
its bytes use. -/

namespace Sys2Proof.Machine

open Sys2Proof.Safety

/-! ### The requests that the device reads -/

theorem readRequest_readBytes (a n : Word) : readRequest (requestBytes 0x03#8 a n) = some (.read a n) := by
  rw [← buildRead_bytes, readRequest_buildRead]

theorem readRequest_writeBytes (a w : Word) : readRequest (requestBytes 0x06#8 a w) = some (.write a w) := by
  rw [← buildWrite_bytes, readRequest_buildWrite]

/-- Only the frame of a write is read as that write. -/
theorem eq_writeBytes_of_readRequest {f : List Byte} {a w : Word} (h : readRequest f = some (.write a w)) :
    f = requestBytes 0x06#8 a w := by
  rcases readRequest_some h with ⟨b, n, hq, -⟩ | ⟨b, v, hq, hf⟩ <;> cases hq
  exact hf

theorem receive_readBytes (cfg : Config) (a n : Word) (c : Drift) (d : Device) :
    d.receive cfg (requestBytes 0x03#8 a n) c = d.drift c := by
  simp [Device.receive, readRequest_readBytes]

theorem receive_writeBytes (cfg : Config) (a w : Word) (c : Drift) (d : Device) :
    d.receive cfg (requestBytes 0x06#8 a w) c = (d.receiveWrite cfg a w c).drift c := by
  simp [Device.receive, readRequest_writeBytes]

/-- A frame that is no request leaves the device to its drift (log 14). -/
theorem receive_noRequest (cfg : Config) {f : List Byte} (c : Drift) (d : Device)
    (h : ∀ a w, f ≠ requestBytes 0x03#8 a w ∧ f ≠ requestBytes 0x06#8 a w) : d.receive cfg f c = d.drift c := by
  have hnone : readRequest f = none := by
    refine Option.eq_none_iff_forall_ne_some.2 fun q hq => ?_
    rcases readRequest_some hq with ⟨a, n, -, hf⟩ | ⟨a, w, -, hf⟩
    · exact (h a n).1 hf
    · exact (h a w).2 hf
  simp [Device.receive, hnone]

/-! ### Modes, triggers and writable addresses -/

theorem modeOf_modeContinuous (cfg : Config) : modeOf cfg cfg.modeContinuous = some .continuous := by simp [modeOf]

theorem modeOf_modeSingleShot {cfg : Config} (h : cfg.Conforming) :
    modeOf cfg cfg.modeSingleShot = some .singleShot := by
  obtain ⟨-, -, -, -, -, -, -, -, hne, -⟩ := h
  simp [modeOf, hne.symm]

theorem modeOf_other {cfg : Config} {w : Word} (hc : w ≠ cfg.modeContinuous) (hs : w ≠ cfg.modeSingleShot) :
    modeOf cfg w = none := by simp [modeOf, hc, hs]

theorem triggerMeaningful_iff (cfg : Config) (w : Word) (d : Device) :
    d.triggerMeaningful cfg w = true ↔
      d.mode = .singleShot ∧ d.settled = true ∧ d.trigReady = true ∧ d.phase ≠ .pending ∧ w = cfg.trigVal := by
  simp [Device.triggerMeaningful, and_assoc]

/-- In SingleShot, settled, no drift ends a pending measurement (R293). -/
theorem driftPhase_pending (c : Drift) {d : Device} (hm : d.mode = .singleShot) (hs : d.settled = true)
    (hp : d.phase = .pending) : d.driftPhase c = .pending := by
  simp [Device.driftPhase, Device.phaseFree, hm, hs, hp]

theorem writableAt_row {cfg : Config} (h : cfg.Conforming) (r : RegName) :
    writableAt cfg (cfg.row r).address = r.writable := by
  simp [writableAt, nameAt_row h]

theorem writableAt_eq_false {cfg : Config} {a : Word} (h : ∀ r, r.writable = true → (cfg.row r).address ≠ a) :
    writableAt cfg a = false := by
  unfold writableAt
  split
  case h_1 r hr => exact Bool.eq_false_iff.2 fun hw => h r hw (nameAt_address hr)
  case h_2 => rfl

/-! ### The write that the device receives, by its address -/

/-- A write to `MODE` sets the mode its word encodes (R292). -/
theorem receiveWrite_mode_atMode (cfg : Config) (w : Word) (c : Drift) (d : Device) :
    (d.receiveWrite cfg (cfg.row .mode).address w c).mode = (modeOf cfg w).getD (c.mode.getD d.mode) := by
  simp [Device.receiveWrite]

/-- A write to `MODE` settles the device exactly if its word encodes a mode (log 12, 32). -/
theorem receiveWrite_settled_atMode (cfg : Config) (w : Word) (c : Drift) (d : Device) :
    (d.receiveWrite cfg (cfg.row .mode).address w c).settled = (modeOf cfg w).isSome := by
  simp [Device.receiveWrite]

theorem trigger_address_ne_mode {cfg : Config} (h : cfg.Conforming) :
    (cfg.row .trigger).address ≠ (cfg.row .mode).address := address_ne h (by decide)

/-- A meaningful trigger starts a measurement (R293). -/
theorem receiveWrite_atTrigger_of_meaningful {cfg : Config} (h : cfg.Conforming) {w : Word} (c : Drift) {d : Device}
    (hm : d.triggerMeaningful cfg w = true) :
    (d.receiveWrite cfg (cfg.row .trigger).address w c).phase = .pending ∧
      (d.receiveWrite cfg (cfg.row .trigger).address w c).settled = d.settled := by
  simp [Device.receiveWrite, trigger_address_ne_mode h, hm]

/-- A trigger that is not meaningful leaves the device unsettled (R294). -/
theorem receiveWrite_atTrigger_of_not_meaningful {cfg : Config} (h : cfg.Conforming) {w : Word} (c : Drift) {d : Device}
    (hm : d.triggerMeaningful cfg w = false) :
    (d.receiveWrite cfg (cfg.row .trigger).address w c).settled = false := by
  simp [Device.receiveWrite, trigger_address_ne_mode h, hm]

/-- A write to neither `MODE` nor `TRIGGER` stores its word where a writable register is mapped, and does nothing else. -/
theorem receiveWrite_elsewhere {cfg : Config} {a w : Word} (c : Drift) (d : Device)
    (hm : a ≠ (cfg.row .mode).address) (ht : a ≠ (cfg.row .trigger).address) :
    d.receiveWrite cfg a w c =
      { d with content := if writableAt cfg a then Memory.writeWord d.content a w else d.content } := by
  simp [Device.receiveWrite, hm, ht]

/-! ### The frames of another bus user -/

theorem otherUserMove_held {s : State} (f : List Byte) (c : Drift) (h : s.busHeld = true) :
    otherUserMove f c s = s.dev := by simp [otherUserMove, h]

theorem otherUserMove_free {s : State} (f : List Byte) (c : Drift) (h : s.busHeld = false) :
    otherUserMove f c s = s.dev.receive s.cfg f c := by simp [otherUserMove, h]

/-- A write frame to `MODE` sets the mode of its word; another word leaves the device unsettled (R292, log 32). -/
theorem receive_atMode {cfg : Config} (h : cfg.Conforming) (w : Word) (c : Drift) (d : Device) :
    let d' := d.receive cfg (requestBytes 0x06#8 (cfg.row .mode).address w) c
    (w = cfg.modeContinuous → d'.mode = .continuous ∧ d'.settled = true) ∧
      (w = cfg.modeSingleShot → d'.mode = .singleShot ∧ d'.settled = true) ∧
      (w ≠ cfg.modeContinuous → w ≠ cfg.modeSingleShot → d'.settled = false) := by
  simp only [receive_writeBytes, drift_mode, drift_settled, receiveWrite_mode_atMode, receiveWrite_settled_atMode]
  refine ⟨fun hw => ?_, fun hw => ?_, fun hc hs => ?_⟩
  · simp [hw, modeOf_modeContinuous]
  · simp [hw, modeOf_modeSingleShot h]
  · simp [modeOf_other hc hs]

/-- A write frame to `TRIGGER` starts a measurement where it is meaningful and leaves the device unsettled where it is
not; the mode stays (R293, R294). -/
theorem receive_atTrigger {cfg : Config} (h : cfg.Conforming) (w : Word) (c : Drift) (d : Device) :
    let d' := d.receive cfg (requestBytes 0x06#8 (cfg.row .trigger).address w) c
    d'.mode = d.mode ∧
      (d.triggerMeaningful cfg w = true → d'.phase = .pending ∧ d'.settled = true) ∧
      (d.triggerMeaningful cfg w = false → d'.settled = false) := by
  have hmode : (d.receiveWrite cfg (cfg.row .trigger).address w c).mode = d.mode :=
    receiveWrite_mode (trigger_address_ne_mode h)
  simp only [receive_writeBytes, drift_mode, drift_settled, drift_phase]
  refine ⟨hmode, fun hm => ?_, receiveWrite_atTrigger_of_not_meaningful h c⟩
  obtain ⟨hp, hs⟩ := receiveWrite_atTrigger_of_meaningful h c hm
  obtain ⟨hsingle, hsettled, -⟩ := (triggerMeaningful_iff cfg w d).1 hm
  have hs' := hs.trans hsettled
  exact ⟨driftPhase_pending c (hmode.trans hsingle) hs' hp, hs'⟩

/-- A write frame to a writable register other than `MODE` and `TRIGGER` stores its word (log 13). -/
theorem receive_atPlain {cfg : Config} (h : cfg.Conforming) {r : RegName} (hr : r.writable = true) (hm : r ≠ .mode)
    (ht : r ≠ .trigger) (w : Word) (c : Drift) (d : Device) :
    d.receive cfg (requestBytes 0x06#8 (cfg.row r).address w) c =
      { d with content := Memory.writeWord d.content (cfg.row r).address w }.drift c := by
  rw [receive_writeBytes, receiveWrite_elsewhere c d (address_ne h hm) (address_ne h ht), writableAt_row h, if_pos hr]

/-- A write frame to no writable register leaves the device to its drift. -/
theorem receive_atUnwritable {cfg : Config} {a : Word} (h : ∀ r, r.writable = true → (cfg.row r).address ≠ a) (w : Word)
    (c : Drift) (d : Device) : d.receive cfg (requestBytes 0x06#8 a w) c = d.drift c := by
  rw [receive_writeBytes, receiveWrite_elsewhere c d (h .mode rfl).symm (h .trigger rfl).symm, writableAt_eq_false h]
  rfl

/-- Settles O59: while the bus is free the frame is received as one of the core's would be, by its kind and address. -/
theorem otherUserActsOnTheDeviceAlone : Obligations.OtherUserActsOnTheDeviceAlone := by
  intro s f c ms hs
  refine ⟨otherUserMove f c s, step_otherUser hs, otherUserMove_held f c, fun hb hc => ?_⟩
  rw [otherUserMove_free f c hb]
  refine ⟨?mode, ?trigger, ?plain, ?unwritable, ?read, receive_noRequest s.cfg c s.dev⟩
  case mode => rintro w rfl; exact receive_atMode hc w c s.dev
  case trigger =>
    rintro w rfl
    obtain ⟨hmode, hstarts, hunsettles⟩ := receive_atTrigger hc w c s.dev
    refine ⟨hmode, fun hw hm hset htr hp => hstarts ?_, fun hno => hunsettles ?_⟩
    · exact (triggerMeaningful_iff s.cfg w s.dev).2 ⟨hm, hset, htr, hp, hw⟩
    · refine Bool.eq_false_iff.2 fun hmean => ?_
      obtain ⟨hm, -, htr, hp, hw⟩ := (triggerMeaningful_iff s.cfg w s.dev).1 hmean
      simp [hm, htr, hp, hw] at hno
  case plain => rintro r w hr hm ht rfl; exact receive_atPlain hc hr hm ht w c s.dev
  case unwritable => rintro a w ha rfl; exact receive_atUnwritable ha w c s.dev
  case read => rintro a n rfl; exact receive_readBytes s.cfg a n c s.dev

end Sys2Proof.Machine
end

section
/-! PROOFS. What a client operation does to the device, and which bytes it stores and leaves (O54, O55). -/

namespace Sys2Proof.Machine

open Sys2Proof.Safety

/-! ### The bytes that a move of the device leaves -/

theorem drift_read_other (d : Device) {c : Drift} {a : Nat} (h : a ∉ driftCells c) :
    Memory.read (d.drift c).content a = Memory.read d.content a :=
  Memory.read_writeAll_other _ _ h

/-- A write leaves every byte outside its word that the device does not change by itself (R57). -/
theorem receive_writeBytes_read_other (cfg : Config) {a w : Word} {c : Drift} (d : Device) {b : Nat}
    (h : b ∉ driftCells c) (hhi : b ≠ Memory.cellHi a) (hlo : b ≠ Memory.cellLo a) :
    Memory.read (d.receive cfg (requestBytes 0x06#8 a w) c).content b = Memory.read d.content b := by
  rw [receive_writeBytes, drift_read_other _ h, receiveWrite_content]
  split
  · exact Memory.read_writeWord_other _ _ _ hhi hlo
  · rfl

/-! ### What a client operation does to the device -/

/-- The device after a call depends on the turns, the configuration and the device, which preparing the command keeps. -/
theorem Ready.deviceAfter_eq {s s' : State} (h : Ready s s') (call : Call) :
    deviceAfter s' call = deviceAfter s call := by
  simp [deviceAfter, h.turns, h.cfg, h.dev]

theorem MakesCall.dev {s t : State} {p : Pending} {o : Host.Outcome State Fault Refusal} (h : MakesCall s p o)
    (ho : o = .next t) : t.dev = deviceAfter s p.call := by
  obtain ⟨s', hr, -, -, -, rfl⟩ := h
  cases ho
  rw [transact_dev, hr.deviceAfter_eq]

theorem EndsAtOnce.calls_dev {s t : State} {r : Res} {o : Host.Outcome State Fault Refusal} (h : EndsAtOnce s r o)
    (ho : o = .next t) : t.calls = [] ∧ t.dev = s.dev := by
  obtain ⟨s', hr, -, -, rfl⟩ := h
  cases ho
  exact ⟨hr.calls, hr.dev⟩

theorem regRead_dev {s t : State} {r : RegName} (h : regRead r s = .next t) :
    t.dev = deviceAfter s (readCall s.cfg r) := by
  rcases regRead_cases r s with ⟨x, hx⟩ | hcall
  · rw [hx] at h; cases h
  · rw [hcall.dev h, framedCall_buildRead]

theorem regWrite_dev {s t : State} {r : RegName} {w : Word} (h : regWrite r w (enter .validate (accept s)) = .next t) :
    t.dev = deviceAfter s (writeCall s.cfg r w) := by
  rcases regWrite_cases r w s with ⟨x, hx⟩ | hcall
  · rw [hx] at h; cases h
  · rw [hcall.dev h, framedCall_buildWrite]

/-- A validated write makes no call, or that of its operand's low 16 bits. -/
theorem validatedWrite_dev {s t : State} {r : RegName} {f : Failure} {b : Bool} {v : BitVec 32}
    (h : validatedWrite r f b v s = .next t) :
    (t.calls = [] ∧ t.dev = s.dev) ∨ t.dev = deviceAfter s (writeCall s.cfg r (narrow16 v)) := by
  rcases validatedWrite_cases r f b v s with ⟨x, hx⟩ | hend | hcall
  · rw [hx] at h; cases h
  · exact .inl (hend.calls_dev h)
  · rw [hcall.dev h, framedCall_buildWrite]; exact .inr rfl

/-- Every encoder gives the low 16 bits of its operand (R90). -/
theorem encodeValue_eq_some {k : DecodeKind} {v : BitVec 32} {w : Word} (h : encodeValue k v = some w) :
    w = narrow16 v := by
  cases k <;> simp only [encodeValue, Option.ite_none_right_eq_some, Option.some.injEq, reduceCtorEq] at h
  · exact h.2.symm
  · exact h.2.symm

theorem writeValue_dev {s t : State} {r : RegName} {v : BitVec 32} (h : writeValue r v s = .next t) :
    t.dev = deviceAfter s (writeCall s.cfg r (narrow16 v)) := by
  cases hv : encodeValue (s.cfg.row r).kind v with
  | none => simp [writeValue, Config.entry, hv] at h
  | some w =>
    rw [← encodeValue_eq_some hv]
    exact regWrite_dev (by simpa [writeValue, Config.entry, hv] using h)

/-- `v mod 65536` is the 16-bit two's-complement form of the operand (R90). -/
theorem narrow16_eq_ofInt (v : BitVec 32) : narrow16 v = BitVec.ofInt 16 v.toInt :=
  (BitVec.signExtend_eq_setWidth_of_le v (by decide)).symm

/-- The writes with an operand that goes out as a word: a call made is that of the operand's word. -/
theorem exec_valueWrite_dev {s t : State} {i : Instr} {r : RegName} {v : BitVec 32}
    (hi : (i, r) ∈ [(Instr.wrregOffset v, RegName.offset), (.wrregCust1 v, .cust1), (.wrregCust2 v, .cust2),
      (.wrregInterval v, .interval), (.wrregFilter v, .filter)])
    (h : exec i s = .next t) (hc : t.calls ≠ []) :
    r.writable = true ∧ t.dev = deviceAfter s (writeCall s.cfg r (BitVec.ofInt 16 v.toInt)) := by
  rw [← narrow16_eq_ofInt]
  simp only [List.mem_cons, Prod.mk.injEq, List.not_mem_nil, or_false] at hi
  rcases hi with ⟨rfl, rfl⟩ | ⟨rfl, rfl⟩ | ⟨rfl, rfl⟩ | ⟨rfl, rfl⟩ | ⟨rfl, rfl⟩
  · exact ⟨rfl, writeValue_dev h⟩
  · exact ⟨rfl, writeValue_dev h⟩
  · exact ⟨rfl, writeValue_dev h⟩
  · exact ⟨rfl, (validatedWrite_dev h).resolve_left fun hend => hc hend.1⟩
  · exact ⟨rfl, (validatedWrite_dev h).resolve_left fun hend => hc hend.1⟩

/-- A write frame leaves the device as it is, or makes the call of a register mapped at its address. -/
theorem exec_rqW_dev {s t : State} {addr value crc : Word} (h : exec (.rqW addr value crc) s = .next t) :
    t.dev = s.dev ∨ ∃ r w, (s.cfg.row r).address = addr ∧ t.dev = deviceAfter s (writeCall s.cfg r w) := by
  change execRqW addr value crc s = .next t at h
  rcases execRqW_cases addr value crc s with ⟨hat, he⟩ | ⟨hat, he⟩ | ⟨r, hat, -, -, he⟩ | ⟨-, he⟩ <;> rw [he] at h
  · exact (validatedWrite_dev h).imp And.right fun hd => ⟨_, _, (writeAt_eq_some hat).1, hd⟩
  · exact (validatedWrite_dev h).imp And.right fun hd => ⟨_, _, (writeAt_eq_some hat).1, hd⟩
  · exact .inr ⟨r, value, (writeAt_eq_some hat).1, regWrite_dev h⟩
  · exact .inl ((buildOnly_endsAtOnce _ s).calls_dev h).2

/-! ### The device after one scripted answer -/

section ScriptedTurn

variable {s t : State} {answer : Option (List Byte)} {x : Bool} {c : Drift} {ts : List Turn}

/-- A framed request reaches the device if it is delivered or echoed (R292, R324). -/
theorem deviceAfter_framed (h : s.turns = .scripted answer x c :: ts) (call : Call) (ha : call.addr = Config.periphAddr) :
    deviceAfter s call =
      if x = true ∨ answer = some call.wbytes then s.dev.receive s.cfg call.wbytes c else s.dev.drift c := by
  simp [deviceAfter, h, answerTurn, ha]

/-- A call to another address than `0x5F` leaves the device to its drift (log 10). -/
theorem deviceAfter_bulk (h : s.turns = .scripted answer x c :: ts) (call : Call) (ha : call.addr ≠ Config.periphAddr) :
    deviceAfter s call = s.dev.drift c := by
  simp [deviceAfter, h, answerTurn, ha]

/-- A read leaves the device to its drift, whether or not it reaches it. -/
theorem deviceAfter_readCall (h : s.turns = .scripted answer x c :: ts) (r : RegName) :
    deviceAfter s (readCall s.cfg r) = s.dev.drift c := by
  rw [deviceAfter_framed h _ rfl, readCall, receive_readBytes, ite_self]

/-- A write, whether or not it reaches the device, leaves the bytes outside its word that do not drift. -/
theorem deviceAfter_writeCall_read_other (h : s.turns = .scripted answer x c :: ts) {r : RegName} (w : Word) {b : Nat}
    (hb : b ∉ driftCells c) (hhi : b ≠ Memory.cellHi (s.cfg.row r).address)
    (hlo : b ≠ Memory.cellLo (s.cfg.row r).address) :
    Memory.read (deviceAfter s (writeCall s.cfg r w)).content b = Memory.read s.dev.content b := by
  rw [deviceAfter_framed h _ rfl]
  split
  · exact receive_writeBytes_read_other s.cfg s.dev hb hhi hlo
  · exact drift_read_other s.dev hb

/-- A write that reaches the device, which does not change the content by itself, leaves its word there. -/
theorem deviceAfter_writeCall_reached (hc : s.cfg.Conforming) (h : s.turns = .scripted answer x c :: ts) {r : RegName}
    (hr : r.writable = true) {w : Word} (hx : x = true ∨ answer = some (writeCall s.cfg r w).wbytes)
    (hnone : c.content = []) :
    (deviceAfter s (writeCall s.cfg r w)).content = Memory.writeWord s.dev.content (s.cfg.row r).address w := by
  rw [deviceAfter_framed h _ rfl, if_pos hx, writeCall, receive_writeBytes, drift_content, receiveWrite_content,
    writableAt_row hc, if_pos hr, hnone]
  rfl

/-- A write that does not reach the device leaves it to its drift. -/
theorem deviceAfter_writeCall_lost (h : s.turns = .scripted answer x c :: ts) {r : RegName} {w : Word} (hx : x = false)
    (ha : answer ≠ some (writeCall s.cfg r w).wbytes) : deviceAfter s (writeCall s.cfg r w) = s.dev.drift c := by
  rw [deviceAfter_framed h _ rfl, if_neg (by simp [hx, ha])]

/-- `GETALL` leaves the device to its drift. -/
theorem exec_getall_dev (hts : s.turns = .scripted answer x c :: ts) (h : exec .getall s = .next t) :
    t.dev = s.dev.drift c := by
  cases h
  have haddr : Config.bulkAddr ≠ Config.periphAddr := by decide
  rw [transact_dev, (ready_bulk s).deviceAfter_eq, deviceAfter_bulk hts _ haddr]

/-- A read frame leaves the device as it is, or to the drift of the read it names. -/
theorem exec_rqR_dev {addr count crc : Word} (hts : s.turns = .scripted answer x c :: ts)
    (h : exec (.rqR addr count crc) s = .next t) : t.dev = s.dev ∨ t.dev = s.dev.drift c := by
  change execRqR addr count crc s = .next t at h
  by_cases h0 : count = 0#16
  · simp [execRqR, h0] at h
  cases hr : readAt s.cfg addr count with
  | none =>
    rw [execRqR_none crc h0 hr] at h
    exact .inl ((buildOnly_endsAtOnce _ s).calls_dev h).2
  | some r =>
    rw [execRqR_some crc h0 hr] at h
    rw [regRead_dev h, deviceAfter_readCall hts]
    exact .inr rfl

end ScriptedTurn

/-- Settles O54: each write that makes a call makes the call of its word to its writable register. -/
theorem writesStoreOneWord : Obligations.WritesStoreOneWord := by
  intro i r w s answer x c ts hc hts hi t ht hcalls
  have hdev : r.writable = true ∧ t.dev = deviceAfter s (writeCall s.cfg r w) := by
    rcases hi with ⟨rfl, rfl, rfl⟩ | ⟨rfl, rfl, rfl⟩ | ⟨rfl, rfl, rfl⟩ | ⟨v, hv, rfl⟩
    · exact ⟨rfl, regWrite_dev ht⟩
    · exact ⟨rfl, regWrite_dev ht⟩
    · exact ⟨rfl, regWrite_dev ht⟩
    · exact exec_valueWrite_dev hv ht hcalls
  obtain ⟨hr, hdev⟩ := hdev
  rw [hdev]
  refine ⟨fun a ha hhi hlo => ?outside, fun hreach hnone => ?reached, fun hx hecho a ha => ?lost⟩
  case outside => exact deviceAfter_writeCall_read_other hts w ha hhi hlo
  case reached =>
    rw [deviceAfter_writeCall_reached hc hts hr hreach hnone]
    exact ⟨Memory.read_writeWord_hi _ _ _, Memory.read_writeWord_lo _ _ _⟩
  case lost =>
    rw [deviceAfter_writeCall_lost hts hx hecho]
    exact drift_read_other s.dev ha

/-- Settles O55: a read, `GETALL` and `RQ_R` leave the device to its drift at most, and `RQ_W` names its register by the
address. -/
theorem readsStoreNothing : Obligations.ReadsStoreNothing := by
  intro s answer x c ts hts
  refine ⟨fun i hi t ht a ha => ?reads, fun addr value crc t ht a ha hhi hlo => ?writeFrame⟩
  case reads =>
    have hdev : t.dev = s.dev ∨ t.dev = s.dev.drift c := by
      rcases hi with rfl | ⟨addr, count, crc, rfl⟩ | ⟨r, hr⟩
      · exact .inr (exec_getall_dev hts ht)
      · exact exec_rqR_dev hts ht
      · rw [exec_read hr] at ht
        exact .inr ((regRead_dev ht).trans (deviceAfter_readCall hts r))
    rcases hdev with h | h <;> rw [h]
    exact drift_read_other s.dev ha
  case writeFrame =>
    rcases exec_rqW_dev ht with h | ⟨r, w, rfl, h⟩ <;> rw [h]
    exact deviceAfter_writeCall_read_other hts w ha hhi hlo

end Sys2Proof.Machine
end

section
/-! PROOFS. Who changes the mode of the device (O50). -/

namespace Sys2Proof.Machine

open Sys2Proof.Safety

/-- The call is that of a write frame addressed to `MODE` (R292). -/
def IsModeWrite (cfg : Config) (call : Call) : Prop :=
  ∃ w, call.addr = 0x5F#8 ∧ call.wbytes = requestBytes 0x06#8 (cfg.row .mode).address w

theorem isModeWrite_of_answerTurn {cfg : Config} {d : Device} {call : Call} {t : Turn}
    (h : (answerTurn cfg d call t).2.mode ≠ d.mode) : IsModeWrite cfg call := by
  obtain ⟨haddr, w, hw⟩ := answerTurn_mode_changed h
  exact ⟨w, haddr, eq_writeBytes_of_readRequest hw⟩

theorem isModeWrite_of_deviceAfter {s : State} {call : Call} (h : (deviceAfter s call).mode ≠ s.dev.mode) :
    IsModeWrite s.cfg call := by
  unfold deviceAfter at h
  split at h
  · exact absurd rfl h
  · exact isModeWrite_of_answerTurn h

theorem await_dev (p : Pending) (s : State) : (await p s).dev = deviceAfter s p.call := by
  cases h : s.turns with
  | nil => rw [await_nil p h]; simp [deviceAfter, h]
  | cons t ts => rw [await_cons p h]; simp [deviceAfter, h]

/-- A command that changes the mode has made one call, a mode write. -/
theorem exec_mode_changed {i : Instr} {s t : State} (h : exec i s = .next t) (hm : t.dev.mode ≠ s.dev.mode) :
    ∃ call, t.calls = [call] ∧ IsModeWrite s.cfg call := by
  rcases exec_next h with ⟨r, s', hr, -, -, rfl⟩ | ⟨p, s', hr, -, -, -, rfl⟩
  · exact absurd (by simp [hr.dev]) hm
  · rw [transact_dev, hr.deviceAfter_eq] at hm
    exact ⟨p.call, by simp [hr.calls], isModeWrite_of_deviceAfter hm⟩

/-- A move of the core that changes the mode ends the transaction of a mode write in flight, or runs a command whose one
call is a mode write. -/
theorem coreMove_mode_changed {s t : State} (h : coreMove s = .next t) (hm : t.dev.mode ≠ s.dev.mode) :
    (∃ p, s.pending = some p ∧ IsModeWrite s.cfg p.call) ∨
      (s.phase = .idle ∧ s.cmdPort ≠ [] ∧ ∃ call, t.calls = [call] ∧ IsModeWrite s.cfg call) := by
  rcases coreMove_next h with ⟨-, -, rfl⟩ | ⟨hidle, e, rest, i, hport, -, hx⟩ | ⟨-, p, hp, rfl⟩ | ⟨-, rfl⟩
  · exact absurd rfl hm
  · exact .inr ⟨hidle, by simp [hport], exec_mode_changed (s := { s with cmdPort := rest }) hx hm⟩
  · rw [await_dev] at hm
    exact .inl ⟨p, hp, isModeWrite_of_deviceAfter hm⟩
  · exact absurd rfl hm

theorem abandoned_mode_changed {s : State} {x : Bool} {c : Drift} (h : (abandoned x c s).mode ≠ s.dev.mode) :
    ∃ p, s.pending = some p ∧ IsModeWrite s.cfg p.call := by
  unfold abandoned at h
  split at h
  · exact absurd rfl h
  case h_2 p hp => exact ⟨p, hp, isModeWrite_of_answerTurn h⟩

theorem otherUserMove_mode_changed {s : State} {f : List Byte} {c : Drift}
    (h : (otherUserMove f c s).mode ≠ s.dev.mode) :
    s.busHeld = false ∧ ∃ w, f = requestBytes 0x06#8 (s.cfg.row .mode).address w := by
  unfold otherUserMove at h
  split at h
  · exact absurd rfl h
  case isFalse hb =>
    obtain ⟨w, hw⟩ := receive_mode_changed h
    exact ⟨by simpa using hb, w, eq_writeBytes_of_readRequest hw⟩

/-- Settles O50: one lemma per move; the moves of the device itself and of the host leave the mode. -/
theorem modeChangesOnlyByModeWrite : Obligations.ModeChangesOnlyByModeWrite := by
  intro s t _ hs hm
  rcases step_next hs with ⟨ms, -, hc⟩ | ⟨e, ms, -, rfl⟩ | ⟨f, c, ms, -, rfl⟩ | ⟨f, c, ms, hsched, rfl⟩ |
    ⟨x, c, ms, -, rfl⟩
  · rcases coreMove_mode_changed hc hm with ⟨p, hp, w, haddr, hw⟩ | ⟨hidle, hport, call, hcalls, w, haddr, hw⟩
    · exact ⟨w, .inl ⟨p, hp, haddr, hw⟩⟩
    · exact ⟨w, .inr (.inl ⟨hidle, hport, call, hcalls, haddr, hw⟩)⟩
  · exact absurd rfl hm
  · exact absurd (ownMove_mode f c s.dev) hm
  · obtain ⟨hbus, w, rfl⟩ := otherUserMove_mode_changed hm
    exact ⟨w, .inr (.inr ⟨hbus, c, ms, hsched⟩)⟩
  · obtain ⟨p, hp, w, haddr, hw⟩ := abandoned_mode_changed (s := { s with schedule := ms }) hm
    exact ⟨w, .inl ⟨p, hp, haddr, hw⟩⟩

end Sys2Proof.Machine
end

section
/-! PROOFS. What the decoder accepts and what it refuses: one equation for each `opc` of R100, then both directions of
the decoding (O1, O3, O4). -/

namespace Sys2Proof

/-! ### Operands -/

/-- A register operand decodes exactly through the register it numbers (R190). -/
theorem withRegid_eq_ok {x : Byte} {k : RegName → Except DecodeError Instr} {i : Instr} (h : withRegid x k = .ok i) :
    ∃ r : RegName, r.regid = x ∧ k r = .ok i := by
  unfold withRegid at h
  split at h
  case h_1 r hr =>
    have hx : r.regid = x := by simpa using List.find?_some hr
    exact ⟨r, hx, h⟩
  case h_2 => cases h

theorem withRegid_regid (r : RegName) (k : RegName → Except DecodeError Instr) : withRegid r.regid k = k r := by
  simp [withRegid]

theorem RegName.regid_le (r : RegName) : r.regid.toNat ≤ 20 := by cases r <;> decide

/-- A register operand is refused above 20, and where the operation refuses the register it numbers (R104). -/
theorem withRegid_refused_iff {x : Byte} {k : RegName → Except DecodeError Instr} {P : Byte → Prop}
    (hk : ∀ r, (∃ e, k r = .error e) ↔ P r.regid) :
    (∃ e, withRegid x k = .error e) ↔ 20 < x.toNat ∨ P x := by
  cases hx : RegName.ofRegid x with
  | none =>
    have hlarge : 20 < x.toNat := by
      rw [← Nat.not_le, ← RegName.ofRegid_isSome, hx]
      decide
    simp [withRegid, hx, hlarge]
  | some r =>
    have hr : r.regid = x := by simpa using List.find?_some hx
    subst hr
    rw [withRegid_regid, hk, or_iff_right (Nat.not_lt.2 r.regid_le)]

theorem encode_of_decodeRead {r : RegName} {i : Instr} (h : decodeRead r = .ok i) : encode i = readCmd r := by
  cases r <;> cases h <;> rfl

theorem encode_of_decodeWrite {r : RegName} {v : BitVec 32} {i : Instr} (h : decodeWrite v r = .ok i) :
    ∃ v', encode i = writeCmd r v' := by
  cases r <;> cases h <;> exact ⟨_, rfl⟩

/-- Only `TRIGGER` is not readable (R190). -/
theorem decodeRead_refused_iff (r : RegName) : (∃ e, decodeRead r = .error e) ↔ r.regid = 20#8 := by
  cases r <;> simp [decodeRead, RegName.regid]

/-- The writable registers are seven (R190). -/
theorem decodeWrite_refused_iff (v : BitVec 32) (r : RegName) :
    (∃ e, decodeWrite v r = .error e) ↔ r.regid ∉ [9#8, 10#8, 11#8, 12#8, 13#8, 17#8, 20#8] := by
  cases r <;> simp [decodeWrite, RegName.regid]

/-! ### The records, by `opc` (R100) -/

section Opcodes

variable {c : Cmd}

theorem decodeCmd_crc16 (h : c.opc = 0x01#8) : decodeCmd c = .ok (.crc16 c.buf) := by simp [decodeCmd, h]

theorem decodeCmd_fdec {b0 b1 b2 b3 : Byte} (h : c.opc = 0x02#8) (hb : c.buf = [b0, b1, b2, b3]) :
    decodeCmd c = .ok (.fdec b0 b1 b2 b3) := by simp [decodeCmd, h, hb]

theorem decodeCmd_fdec_length (h : c.opc = 0x02#8) (hb : c.buf.length ≠ 4) : decodeCmd c = .error .operandLength := by
  simp only [decodeCmd, h, reduceIte, BitVec.reduceEq]
  split
  case h_1 hbuf => simp [hbuf] at hb
  case h_2 => rfl

theorem decodeCmd_bldrd (h : c.opc = 0x03#8) : decodeCmd c = .ok (.bldrd c.a c.b) := by simp [decodeCmd, h]

theorem decodeCmd_prsrd (h : c.opc = 0x04#8) : decodeCmd c = .ok (.prsrd c.buf c.n) := by simp [decodeCmd, h]

theorem decodeCmd_bldwr {vh vl : Byte} (h : c.opc = 0x05#8) (hb : c.buf = [vh, vl]) :
    decodeCmd c = .ok (.bldwr c.a vh vl) := by simp [decodeCmd, h, hb]

theorem decodeCmd_bldwr_length (h : c.opc = 0x05#8) (hb : c.buf.length ≠ 2) : decodeCmd c = .error .operandLength := by
  simp only [decodeCmd, h, reduceIte, BitVec.reduceEq]
  split
  case h_1 hbuf => simp [hbuf] at hb
  case h_2 => rfl

theorem decodeCmd_prswr (h : c.opc = 0x06#8) : decodeCmd c = .ok (.prswr c.buf c.buf2) := by simp [decodeCmd, h]

theorem decodeCmd_lookup (h : c.opc = 0x07#8) : decodeCmd c = withRegid c.regid fun r => .ok (.lookup r) := by
  simp [decodeCmd, h]

theorem decodeCmd_read (h : c.opc = 0x10#8) : decodeCmd c = withRegid c.regid decodeRead := by simp [decodeCmd, h]

theorem decodeCmd_write (h : c.opc = 0x11#8) : decodeCmd c = withRegid c.regid (decodeWrite c.v) := by
  simp [decodeCmd, h]

theorem decodeCmd_getall (h : c.opc = 0x12#8) : decodeCmd c = .ok .getall := by simp [decodeCmd, h]

/-- The ten values of `opc` (R100). -/
def opcodes : List Byte := [0x01#8, 0x02#8, 0x03#8, 0x04#8, 0x05#8, 0x06#8, 0x07#8, 0x10#8, 0x11#8, 0x12#8]

theorem mem_opcodes (x : Byte) :
    x ∈ opcodes ↔ x = 0x01#8 ∨ x = 0x02#8 ∨ x = 0x03#8 ∨ x = 0x04#8 ∨ x = 0x05#8 ∨ x = 0x06#8 ∨ x = 0x07#8 ∨
      x = 0x10#8 ∨ x = 0x11#8 ∨ x = 0x12#8 := by simp [opcodes]

theorem decodeCmd_unknown (h : c.opc ∉ opcodes) : decodeCmd c = .error .unknownSelector := by
  simp_all [mem_opcodes, decodeCmd]

end Opcodes

/-! ### From the decoded operation back to what was presented -/

/-- A decoded record whose operation reads `regid` is encoded with that number (R100). -/
theorem encode_of_decodeCmd_regid {c : Cmd} {i : Instr} (h : decodeCmd c = .ok i)
    (hr : c.opc = 0x07#8 ∨ c.opc = 0x10#8 ∨ c.opc = 0x11#8) :
    ∃ c', encode i = .cmd c' ∧ c'.opc = c.opc ∧ c'.regid = c.regid := by
  rcases hr with ho | ho | ho
  · rw [decodeCmd_lookup ho] at h
    obtain ⟨r, hreg, hi⟩ := withRegid_eq_ok h
    cases hi
    exact ⟨_, rfl, ho.symm, hreg⟩
  · rw [decodeCmd_read ho] at h
    obtain ⟨r, hreg, hi⟩ := withRegid_eq_ok h
    exact ⟨_, encode_of_decodeRead hi, ho.symm, hreg⟩
  · rw [decodeCmd_write ho] at h
    obtain ⟨r, hreg, hi⟩ := withRegid_eq_ok h
    obtain ⟨v, hv⟩ := encode_of_decodeWrite hi
    exact ⟨_, hv, ho.symm, hreg⟩

/-- A decoded record is encoded with its `opc` (R100). -/
theorem encode_of_decodeCmd {c : Cmd} {i : Instr} (h : decodeCmd c = .ok i) :
    ∃ c', encode i = .cmd c' ∧ c'.opc = c.opc := by
  by_cases hr : c.opc = 0x07#8 ∨ c.opc = 0x10#8 ∨ c.opc = 0x11#8
  · obtain ⟨c', henc, hopc, -⟩ := encode_of_decodeCmd_regid h hr
    exact ⟨c', henc, hopc⟩
  by_cases hk : c.opc ∈ opcodes
  case neg => rw [decodeCmd_unknown hk] at h; cases h
  rcases (mem_opcodes _).1 hk with ho | ho | ho | ho | ho | ho | ho | ho | ho | ho
  · cases (decodeCmd_crc16 ho).symm.trans h
    exact ⟨_, rfl, ho.symm⟩
  · by_cases hb : c.buf.length = 4
    · obtain ⟨b0, b1, b2, b3, hbuf⟩ := List.length_eq_four.1 hb
      cases (decodeCmd_fdec ho hbuf).symm.trans h
      exact ⟨_, rfl, ho.symm⟩
    · cases (decodeCmd_fdec_length ho hb).symm.trans h
  · cases (decodeCmd_bldrd ho).symm.trans h
    exact ⟨_, rfl, ho.symm⟩
  · cases (decodeCmd_prsrd ho).symm.trans h
    exact ⟨_, rfl, ho.symm⟩
  · by_cases hb : c.buf.length = 2
    · obtain ⟨vh, vl, hbuf⟩ := List.length_eq_two.1 hb
      cases (decodeCmd_bldwr ho hbuf).symm.trans h
      exact ⟨_, rfl, ho.symm⟩
    · cases (decodeCmd_bldwr_length ho hb).symm.trans h
  · cases (decodeCmd_prswr ho).symm.trans h
    exact ⟨_, rfl, ho.symm⟩
  · exact absurd (.inl ho) hr
  · exact absurd (.inr (.inl ho)) hr
  · exact absurd (.inr (.inr ho)) hr
  · cases (decodeCmd_getall ho).symm.trans h
    exact ⟨_, rfl, ho.symm⟩

/-- A decoded frame is encoded byte by byte as it was presented (R80, R81). -/
theorem encode_of_decodeWire {f : List Byte} {i : Instr} (h : decodeWire f = .ok i) :
    encode i = .wire f ∧ f.length = 7 := by
  unfold decodeWire at h
  split at h
  case h_2 => cases h
  case h_1 fc ah al x y cl ch =>
    split at h
    case isTrue hfc =>
      cases h
      exact ⟨by simp [encode, enc16, encCrc, decCrc, hfc], rfl⟩
    case isFalse =>
      split at h
      case isTrue hfc =>
        cases h
        exact ⟨by simp [encode, enc16, encCrc, decCrc, hfc], rfl⟩
      case isFalse => cases h

/-! ### The statements -/

/-- Settles O1: every row of the table is a closed word, which decodes by evaluation. -/
theorem tableWordsDecodeAsWritten : Obligations.TableWordsDecodeAsWritten := by
  refine ⟨?primitives, ?readsLow, ?readsHigh, ?writes, ?frames⟩
  case primitives => decide
  case readsLow => decide
  case readsHigh => decide
  case writes => decide
  case frames => decide

/-- Settles O3: the record is read back through its `opc`, and through `regid` where a register is named; the frame byte
by byte. -/
theorem decodedItemHasTheTableSelector : Obligations.DecodedItemHasTheTableSelector := by
  refine ⟨fun c i h => ?_, fun f i h => encode_of_decodeWire h⟩
  by_cases hr : c.opc = 0x07#8 ∨ c.opc = 0x10#8 ∨ c.opc = 0x11#8
  · obtain ⟨c', henc, hopc, hregid⟩ := encode_of_decodeCmd_regid h hr
    exact ⟨c', henc, hopc, fun _ => by rw [Cmd.selector, hopc, hregid, Cmd.selector]⟩
  · obtain ⟨c', henc, hopc⟩ := encode_of_decodeCmd h
    exact ⟨c', henc, hopc, fun hr' => absurd hr' hr⟩

/-- Settles O4: opcode by opcode; a register operand is refused above 20 or where its register forbids the access, a
buffer by its length. -/
theorem refusedRecordsAreThoseOfTheRule : Obligations.RefusedRecordsAreThoseOfTheRule := by
  intro c
  change (∃ e, decodeCmd c = .error e) ↔ _
  by_cases hk : c.opc ∈ opcodes
  case neg => exact iff_of_true ⟨_, decodeCmd_unknown hk⟩ (.inl hk)
  rcases (mem_opcodes _).1 hk with ho | ho | ho | ho | ho | ho | ho | ho | ho | ho
  · simp [decodeCmd_crc16 ho, ho]
  · by_cases hb : c.buf.length = 4
    · obtain ⟨b0, b1, b2, b3, hbuf⟩ := List.length_eq_four.1 hb
      simp [decodeCmd_fdec ho hbuf, ho, hb]
    · simp [decodeCmd_fdec_length ho hb, ho, hb]
  · simp [decodeCmd_bldrd ho, ho]
  · simp [decodeCmd_prsrd ho, ho]
  · by_cases hb : c.buf.length = 2
    · obtain ⟨vh, vl, hbuf⟩ := List.length_eq_two.1 hb
      simp [decodeCmd_bldwr ho hbuf, ho, hb]
    · simp [decodeCmd_bldwr_length ho hb, ho, hb]
  · simp [decodeCmd_prswr ho, ho]
  · rw [decodeCmd_lookup ho, withRegid_refused_iff (P := fun _ => False) (by simp)]
    simp [ho]
  · rw [decodeCmd_read ho, withRegid_refused_iff (P := (· = 20#8)) decodeRead_refused_iff]
    simp [ho]
  · rw [decodeCmd_write ho, withRegid_refused_iff (P := (· ∉ [9#8, 10#8, 11#8, 12#8, 13#8, 17#8, 20#8]))
      (decodeWrite_refused_iff c.v)]
    simp [ho]
  · simp [decodeCmd_getall ho, ho]

end Sys2Proof
end

section
/-! PROOFS. The writes of OFFSET, CUST1, CUST2 and MODE, and the bulk read, once answered (O38, O39, O41). -/

namespace Sys2Proof.Machine

open Sys2Proof.Safety

/-! ### The record of a write -/

/-- A `WRREG` record is the write of the register it numbers (R100, R190). -/
theorem decode_write {c : Cmd} {r : RegName} (ho : c.opc = 0x11#8) (hr : c.regid = r.regid) :
    decode (.cmd c) = decodeWrite c.v r := by
  change decodeCmd c = _
  rw [decodeCmd_write ho, hr, withRegid_regid]

/-! ### The operand of a plain write -/

/-- The operands that a kind of register encodes (R90); a kind with no encoder takes none. -/
def InRangeOfKind (k : DecodeKind) (v : BitVec 32) : Prop :=
  (k = .rawU16 ∧ 0 ≤ v.toInt ∧ v.toInt ≤ 65535) ∨ (k = .signed16 ∧ -32768 ≤ v.toInt ∧ v.toInt ≤ 32767)

theorem encodeValue_isSome_iff (k : DecodeKind) (v : BitVec 32) :
    (encodeValue k v).isSome = true ↔ InRangeOfKind k v := by
  cases k <;> simp [encodeValue, InRangeOfKind]

/-- An operand outside the range of the register's kind is refused (R90, R104). -/
theorem writeValue_refused {s : State} {r : RegName} {v : BitVec 32} (h : ¬InRangeOfKind (s.cfg.row r).kind v) :
    writeValue r v s = .refused .valueOutOfRange := by
  have hnone : encodeValue (s.cfg.row r).kind v = none := by
    rwa [← encodeValue_isSome_iff, Option.not_isSome_iff_eq_none] at h
  simp [writeValue, Config.entry, hnone]

/-- An operand in the range of the register's kind is written modulo 65536 (R90, R250). -/
theorem writeValue_eq {s : State} {r : RegName} {v : BitVec 32} (h : InRangeOfKind (s.cfg.row r).kind v) :
    writeValue r v s = regWrite r (narrow16 v) (enter .validate (accept s)) := by
  obtain ⟨w, hw⟩ := Option.isSome_iff_exists.1 ((encodeValue_isSome_iff _ v).2 h)
  simp [writeValue, Config.entry, hw, encodeValue_eq_some hw]

/-- The operand modulo 65536 is its low 16 bits (R90). -/
theorem narrow16_eq_ofInt_emod (v : BitVec 32) : narrow16 v = BitVec.ofInt 16 (v.toInt % 65536) := by
  rw [narrow16_eq_ofInt]
  apply BitVec.eq_of_toNat_eq
  simp [BitVec.toNat_ofInt]

/-- Settles O38: each of the three is the generic write of its register. -/
theorem plainWritesRunInTheRangeOfTheKind : Obligations.PlainWritesRunInTheRangeOfTheKind := by
  refine ⟨fun c ho => ⟨decode_write (r := .offset) ho, decode_write (r := .cust1) ho, decode_write (r := .cust2) ho⟩, ?_⟩
  intro v i r hi s hc
  have hexec : exec i s = writeValue r v s := by
    simp only [List.mem_cons, Prod.mk.injEq, List.not_mem_nil, or_false] at hi
    rcases hi with ⟨rfl, rfl⟩ | ⟨rfl, rfl⟩ | ⟨rfl, rfl⟩ <;> rfl
  rw [hexec, ← narrow16_eq_ofInt_emod]
  refine ⟨writeValue_refused, fun hrange ht => ?_⟩
  rw [writeValue_eq hrange]
  exact regWrite_writeRan r (narrow16 v) hc ht

/-! ### The mode write -/

/-- An operand other than 0 and 1 names no mode (R104, R261). -/
theorem exec_wrregMode_refused {v : BitVec 32} (h0 : v ≠ 0#32) (h1 : v ≠ 1#32) (s : State) :
    exec (.wrregMode v) s = .refused .modeOperand := by
  simp [exec, execWrregMode, h0, h1]

/-- Settles O39: the two operands select the word of the generic write. -/
theorem modeWriteSendsTheModeWord : Obligations.ModeWriteSendsTheModeWord := by
  refine ⟨fun c ho hr => decode_write (r := .mode) ho hr, fun v s hc => ⟨?other, fun ht => ⟨?zero, ?one⟩⟩⟩
  case other =>
    intro h0 h1
    exact exec_wrregMode_refused (by rintro rfl; exact h0 rfl) (by rintro rfl; exact h1 rfl) s
  case zero =>
    intro h0
    obtain rfl : v = 0#32 := BitVec.eq_of_toInt_eq h0
    exact regWrite_writeRan .mode s.cfg.modeContinuous hc ht
  case one =>
    intro h1
    obtain rfl : v = 1#32 := BitVec.eq_of_toInt_eq h1
    exact regWrite_writeRan .mode s.cfg.modeSingleShot hc ht

/-! ### The bulk read -/

/-- The bulk reply is checked for its length alone: the Checksum Engine stays as it is (R275). -/
theorem receive_keepsEngine_bulk {p : Pending} (hp : p.expect = .bulk) (a : Option (List Byte)) (s : State) :
    KeepsEngine s (receive p a s) := by
  cases a with
  | none => exact ⟨rfl, rfl, rfl⟩
  | some f =>
    by_cases hl : f.length = p.call.n
    · rw [receive_reply p s hl, hp]
      exact ⟨rfl, rfl, rfl⟩
    · rw [receive_wrongLength p s hl]
      exact ⟨rfl, rfl, rfl⟩

theorem transact_keepsEngine_bulk {p : Pending} (hp : p.expect = .bulk) (s : State) : KeepsEngine s (transact p s) := by
  cases hs : s.turns with
  | nil => rw [transact_nil p hs]; exact ⟨rfl, rfl, rfl⟩
  | cons t ts =>
    rw [transact_cons p hs]
    obtain ⟨hacc, hidx, hbit⟩ := receive_keepsEngine_bulk hp (answerTurn s.cfg s.dev p.call t).1
      (endCall ts (answerTurn s.cfg s.dev p.call t).2 (startCall p s))
    exact ⟨hacc, hidx, hbit⟩

/-- The transaction of the bulk read (R275). -/
def bulkPending (c : Config) : Pending :=
  { call := { addr := Config.bulkAddr, wbytes := c.bulkCmd, n := Config.bulkLen }, expect := .bulk }

theorem exec_getall (s : State) :
    exec .getall s = .next (transact (bulkPending s.cfg) (enter .build (enter .validate (accept s)))) := rfl

/-- Settles O41: one transaction from a state prepared without frame and checksum. -/
theorem getallReadsTheBulkReply : Obligations.GetallReadsTheBulkReply := by
  refine ⟨fun c ho => decodeCmd_getall ho, fun s ht => ⟨_, exec_getall s, ?ran, ?engine, ?tx, ?dev⟩⟩
  case ran =>
    have hone := transact_oneTransaction (p := bulkPending s.cfg) (ready_bulk s) ht
    rwa [bulkResult_eq _ rfl rfl] at hone
  case engine =>
    obtain ⟨hacc, hidx, hbit⟩ := transact_keepsEngine_bulk (p := bulkPending s.cfg) rfl
      (enter .build (enter .validate (accept s)))
    exact ⟨hacc, hidx, hbit⟩
  case tx => exact transact_txbuf ..
  case dev => exact fun answer x d ts hts => exec_getall_dev hts (exec_getall s)

end Sys2Proof.Machine
end

section
/-! PROOFS. The Checksum Engine: the byte-serial form runs the functional one, a payload with its own checksum leaves
nothing, and `CRC16` (O16 to O19). -/

namespace Sys2Proof.Machine

open Sys2Proof.Safety

/-! ### The byte-serial engine (R124) -/

theorem Engine.run_add (p : List Byte) (m n : Nat) (e : Engine) :
    Engine.run p (m + n) e = Engine.run p n (Engine.run p m e) := by
  induction m generalizing e with
  | zero => rw [Nat.zero_add, Engine.run]
  | succ m ih => rw [Nat.succ_add, Engine.run, ih, Engine.run]

theorem Engine.step_load {p : List Byte} {b : Byte} {i : Nat} (h : (Config.crcPrefix :: p)[i]? = some b) (acc : Word) :
    Engine.step p ⟨acc, i, 0⟩ = ⟨loadByte acc b, i, 8⟩ := by
  simp [Engine.step, h]

/-- The shifts that are left of a byte end with the engine at the next byte. -/
theorem Engine.run_shifts (p : List Byte) (acc : Word) (i n : Nat) :
    Engine.run p (n + 1) ⟨acc, i, n + 1⟩ = ⟨bitSteps (n + 1) acc, i + 1, 0⟩ := by
  induction n generalizing acc with
  | zero => rfl
  | succ n ih =>
    have hshift : Engine.step p ⟨acc, i, n + 1 + 1⟩ = ⟨bitStep acc, i, n + 1⟩ := by simp [Engine.step]
    rw [Engine.run, hshift]
    exact ih _

/-- One load and eight shifts are the byte step (R122). -/
theorem Engine.run_byte {p : List Byte} {b : Byte} {i : Nat} (h : (Config.crcPrefix :: p)[i]? = some b) (acc : Word) :
    Engine.run p 9 ⟨acc, i, 0⟩ = ⟨crcByte acc b, i + 1, 0⟩ := by
  rw [Engine.run, Engine.step_load h, Engine.run_shifts, crcByte]

/-- After `k` bytes of 9 steps each, `ACC` is the functional form over those `k` bytes. -/
theorem Engine.run_bytes (p : List Byte) {k : Nat} (hk : k ≤ p.length + 1) :
    Engine.run p (9 * k) Engine.start = ⟨((Config.crcPrefix :: p).take k).foldl crcByte Config.crcInit, k, 0⟩ := by
  induction k with
  | zero => rfl
  | succ k ih =>
    have hbyte : (Config.crcPrefix :: p)[k]? = some (Config.crcPrefix :: p)[k] := List.getElem?_eq_getElem hk
    rw [Nat.mul_succ, Engine.run_add, ih (Nat.le_of_succ_le hk), Engine.run_byte hbyte, List.take_add_one, hbyte,
      Option.toList_some, List.foldl_concat]

/-- The steps behind an engine: nine for each byte consumed, and those of the byte at hand. -/
def Engine.progress (e : Engine) : Nat := 9 * e.byteIdx + (if e.bitCnt = 0 then 0 else 9 - e.bitCnt)

theorem Engine.progress_step_le (p : List Byte) (e : Engine) : (Engine.step p e).progress ≤ e.progress + 1 := by
  unfold Engine.step
  split
  case isTrue hload => split <;> simp [Engine.progress, hload]
  case isFalse hshift =>
    by_cases hlast : e.bitCnt = 1
    · simp [Engine.progress, hlast]; omega
    · simp [Engine.progress, hshift, hlast]; split <;> omega

theorem Engine.progress_run_le (p : List Byte) (k : Nat) (e : Engine) :
    (Engine.run p k e).progress ≤ e.progress + k := by
  induction k generalizing e with
  | zero => exact le_rfl
  | succ k ih =>
    have hrun := ih (Engine.step p e)
    have hstep := Engine.progress_step_le p e
    rw [Engine.run]
    omega

theorem Engine.progress_of_isDone {p : List Byte} {e : Engine} (h : e.isDone p = true) :
    e.progress = 9 * (p.length + 1) := by
  obtain ⟨hbit, hidx⟩ : e.bitCnt = 0 ∧ e.byteIdx = p.length + 1 := by simpa [Engine.isDone] using h
  simp [Engine.progress, hbit, hidx]

/-- Settles O18: byte by byte the engine makes the functional form's steps, and a step makes at most one step's
progress. -/
theorem byteSerialEngineComputesTheChecksum : Obligations.ByteSerialEngineComputesTheChecksum := by
  refine fun p => ⟨?result, fun k hk => ?early⟩
  case result =>
    have hall : (Config.crcPrefix :: p).take (p.length + 1) = Config.crcPrefix :: p := by simp
    rw [Engine.run_bytes p le_rfl, hall, checksum16]
  case early =>
    rw [Bool.eq_false_iff]
    intro hdone
    have hle := Engine.progress_run_le p k Engine.start
    rw [Engine.progress_of_isDone hdone, show Engine.start.progress = 0 from rfl] at hle
    omega

/-! ### The residue (R127) -/

/-- Where the low `n` bits are 0 the polynomial is not applied: `n` bit steps shift them out. -/
theorem bitSteps_eq_shift {n : Nat} {acc : Word} (h : ∀ i < n, acc.getLsbD i = false) : bitSteps n acc = acc >>> n := by
  induction n generalizing acc with
  | zero => simp [bitSteps]
  | succ n ih =>
    have hbit : bitStep acc = acc >>> 1 := by rw [bitStep, h 0 n.succ_pos, if_neg Bool.false_ne_true]
    have hrest : ∀ i < n, (acc >>> 1).getLsbD i = false := by
      intro i hi
      rw [BitVec.getLsbD_ushiftRight]
      exact h _ (by omega)
    rw [bitSteps, hbit, ih hrest, ← BitVec.shiftRight_add, Nat.add_comm]

/-- The low byte of the accumulator cancels it: the high byte is left, in the low place. -/
theorem crcByte_lo8 (acc : Word) : crcByte acc (lo8 acc) = (hi8 acc).setWidth 16 := by
  have hlow : ∀ i < 8, (loadByte acc (lo8 acc)).getLsbD i = false := by
    intro i hi
    simp [loadByte, lo8, hi, show i < 16 by omega]
  rw [crcByte, bitSteps_eq_shift hlow]
  ext i hi
  by_cases hb : i < 8
  · simp [loadByte, lo8, hi8, hb]
  · simp [loadByte, lo8, hi8, hb, show 16 ≤ 8 + i by omega]

/-- A byte that is the whole accumulator leaves 0. -/
theorem crcByte_setWidth (b : Byte) : crcByte (b.setWidth 16) b = 0#16 := by
  rw [crcByte, loadByte, BitVec.xor_self, bitSteps_eq_shift (by simp), BitVec.zero_ushiftRight]

/-- Settles O19: the low byte of the checksum moves its high byte down, and the high byte then cancels it. -/
theorem checksumResidueIsZero : Obligations.ChecksumResidueIsZero := by
  intro p
  rw [checksum16_append, List.foldl_cons, List.foldl_cons, List.foldl_nil, crcByte_lo8, crcByte_setWidth]

/-! ### The known vector and `CRC16` (R120, R128) -/

/-- Settles O16: six closed words. -/
theorem knownVectorOfTheSource : Obligations.KnownVectorOfTheSource := by
  unfold Obligations.KnownVectorOfTheSource
  decide +kernel

/-- A primitive that ends once the engine has run over its payload changes nothing else. -/
theorem succeed_runEngine_checksumPrimitive (p : List Byte) (v : Val) (s : State) :
    ChecksumPrimitive p (.ok v) s (succeed v (runEngine p (accept s))) := by
  constructor <;> constructor <;> simp

theorem exec_crc16 (p : List Byte) (s : State) :
    exec (.crc16 p) s = .next (succeed (.u16 (checksum16 p)) (runEngine p (accept s))) := rfl

/-- Settles O17: the record decodes by its `opc`, and the operation is the engine's run. -/
theorem crc16ReturnsTheChecksum : Obligations.Crc16ReturnsTheChecksum :=
  ⟨fun _ ho => decodeCmd_crc16 ho, fun p s => ⟨_, exec_crc16 p s, succeed_runEngine_checksumPrimitive p _ s⟩⟩

end Sys2Proof.Machine
end

section
/-! PROOFS. The Float Decoder: the fields are cut from the bytes, the pattern's fields are those fields, so the pattern
denotes the formula, in its range, and forgets one bit (O21 to O25). -/

namespace Sys2Proof.Machine

open Sys2Proof.Safety

/-! ### The fields, by the bytes (R141) -/

theorem floatSign_eq_decide (b2 : Byte) : floatSign b2 = decide (128 ≤ b2.toNat) := by
  rw [floatSign, ← BitVec.testBit_toNat, Nat.testBit_eq_decide_div_mod_eq, decide_eq_decide]
  omega

theorem floatExponent_toNat (b2 b3 : Byte) :
    (floatExponent b2 b3).toNat = 2 * (b2.toNat % 128) + b3.toNat / 128 := by
  have hshift : b2.toNat <<< 1 % 2 ^ 8 = (b2.toNat % 128) <<< 1 := by
    simp only [Nat.shiftLeft_eq]
    omega
  have hlow : b3.toNat >>> 7 < 2 ^ 1 := by
    rw [Nat.shiftRight_eq_div_pow]
    omega
  rw [floatExponent, BitVec.toNat_or, BitVec.toNat_shiftLeft, BitVec.toNat_ushiftRight, hshift,
    ← Nat.shiftLeft_add_eq_or_of_lt hlow, Nat.shiftLeft_eq, Nat.shiftRight_eq_div_pow]
  omega

theorem floatRawMantissa_toNat (b0 b1 b3 : Byte) :
    (floatRawMantissa b0 b1 b3).toNat = (b3.toNat % 128) * 65536 + b0.toNat * 256 + b1.toNat := by
  have h1 := b1.isLt
  have hhigh : (b3.toNat % 2 ^ 23) <<< 16 % 2 ^ 23 = (b3.toNat % 128) <<< 16 := by
    simp only [Nat.shiftLeft_eq]
    omega
  have hmid : (b0.toNat % 2 ^ 23) <<< 8 % 2 ^ 23 = b0.toNat <<< 8 := by
    simp only [Nat.shiftLeft_eq]
    omega
  have hlow : b1.toNat % 2 ^ 23 = b1.toNat := by omega
  have hlt : b0.toNat <<< 8 + b1.toNat < 2 ^ 16 := by
    rw [Nat.shiftLeft_eq]
    omega
  rw [floatRawMantissa, BitVec.toNat_or, BitVec.toNat_or, BitVec.toNat_shiftLeft, BitVec.toNat_shiftLeft,
    BitVec.toNat_setWidth, BitVec.toNat_setWidth, BitVec.toNat_setWidth, hhigh, hmid, hlow, Nat.or_assoc,
    ← Nat.shiftLeft_add_eq_or_of_lt h1, ← Nat.shiftLeft_add_eq_or_of_lt hlt, Nat.shiftLeft_eq, Nat.shiftLeft_eq]
  omega

theorem floatFrac_toNat (b0 b1 b3 : Byte) :
    (floatFrac b0 b1 b3).toNat = (floatRawMantissa b0 b1 b3).toNat / 2 := by
  rw [floatFrac, BitVec.toNat_setWidth, BitVec.toNat_ushiftRight, Nat.shiftRight_eq_div_pow]
  omega

/-! ### The pattern, by the fields (R144) -/

/-- The three fields of the pattern do not overlap, so `|||` adds them. -/
theorem floatBits64_toNat (b0 b1 b2 b3 : Byte) :
    (floatBits64 b0 b1 b2 b3).toNat = (floatSign b2).toNat * 2 ^ 63 +
      ((floatExponent b2 b3).toNat + 896) * 2 ^ 52 + (floatFrac b0 b1 b3).toNat * 2 ^ 30 := by
  have hs := (floatSign b2).toNat_le
  have hsign : ((BitVec.ofBool (floatSign b2)).setWidth 64 <<< 63).toNat = (floatSign b2).toNat <<< 63 := by
    rw [BitVec.toNat_shiftLeft, BitVec.toNat_setWidth, BitVec.toNat_ofBool, Nat.shiftLeft_eq, Nat.shiftLeft_eq]
    omega
  have hexp : (((floatExponent b2 b3).setWidth 64 + 896#64) <<< 52).toNat =
      ((floatExponent b2 b3).toNat + 896) <<< 52 := by
    rw [BitVec.toNat_shiftLeft, BitVec.toNat_add, BitVec.toNat_setWidth, BitVec.toNat_ofNat, Nat.shiftLeft_eq,
      Nat.shiftLeft_eq]
    omega
  have hfrac : ((floatFrac b0 b1 b3).setWidth 64 <<< 30).toNat = (floatFrac b0 b1 b3).toNat <<< 30 := by
    rw [BitVec.toNat_shiftLeft, BitVec.toNat_setWidth, Nat.shiftLeft_eq, Nat.shiftLeft_eq]
    omega
  have hlow : (floatFrac b0 b1 b3).toNat <<< 30 < 2 ^ 52 := by
    rw [Nat.shiftLeft_eq]
    omega
  have hrest : ((floatExponent b2 b3).toNat + 896) <<< 52 + (floatFrac b0 b1 b3).toNat <<< 30 < 2 ^ 63 := by
    rw [Nat.shiftLeft_eq, Nat.shiftLeft_eq]
    omega
  rw [floatBits64, BitVec.toNat_or, BitVec.toNat_or, hsign, hexp, hfrac, Nat.or_assoc,
    ← Nat.shiftLeft_add_eq_or_of_lt hlow, ← Nat.shiftLeft_add_eq_or_of_lt hrest, Nat.shiftLeft_eq, Nat.shiftLeft_eq,
    Nat.shiftLeft_eq, Nat.add_assoc]

section Fields

variable (b0 b1 b2 b3 : Byte)

theorem floatBits64_sign : (floatBits64 b0 b1 b2 b3).getLsbD 63 = floatSign b2 := by
  rw [← BitVec.testBit_toNat, floatBits64_toNat, Nat.testBit_eq_decide_div_mod_eq]
  cases floatSign b2
  · simp only [Bool.toNat_false, decide_eq_false_iff_not]
    omega
  · simp only [Bool.toNat_true, decide_eq_true_eq]
    omega

theorem floatBits64_exponentField :
    ((floatBits64 b0 b1 b2 b3 >>> 52).setWidth 11).toNat = (floatExponent b2 b3).toNat + 896 := by
  rw [BitVec.toNat_setWidth, BitVec.toNat_ushiftRight, floatBits64_toNat, Nat.shiftRight_eq_div_pow]
  omega

theorem floatBits64_fractionField :
    ((floatBits64 b0 b1 b2 b3).setWidth 52).toNat = (floatFrac b0 b1 b3).toNat * 2 ^ 30 := by
  rw [BitVec.toNat_setWidth, floatBits64_toNat]
  omega

/-- The value of a pattern (R144) with its sign and constants written in the rationals. -/
theorem binary64Value_eq (w : BitVec 64) :
    binary64Value w =
      (if w.getLsbD 63 then (-1 : Rat) else 1) * ((1 : Rat) + ((w.setWidth 52).toNat : Rat) / (2 : Rat) ^ 52) *
        (2 : Rat) ^ ((((w >>> 52).setWidth 11).toNat : Int) - 1023) := by
  rw [binary64Value]
  cases w.getLsbD 63 <;> simp

/-- `frac * 2^30` over `2^52` is `frac / 2^22`, and `exponent + 896` less 1023 is `exponent - 127`. -/
theorem binary64Value_floatBits64 : binary64Value (floatBits64 b0 b1 b2 b3) = floatValue b0 b1 b2 b3 := by
  have hfrac : (((floatFrac b0 b1 b3).toNat * 2 ^ 30 : Nat) : Rat) / 2 ^ 52 =
      ((floatFrac b0 b1 b3).toNat : Rat) / 2 ^ Config.floatFracBits := by
    rw [Config.floatFracBits]
    push_cast
    ring
  have hexp : (((floatExponent b2 b3).toNat + 896 : Nat) : Int) - 1023 =
      ((floatExponent b2 b3).toNat : Int) - Config.floatBias := by
    rw [Config.floatBias]
    omega
  rw [binary64Value_eq, floatBits64_sign, floatBits64_exponentField, floatBits64_fractionField, hfrac, hexp, floatValue]

end Fields

/-- Settles O22: the pattern as a number is the sum of its three fields, and each field is cut out of that sum. -/
theorem floatPatternDenotesTheFormula : Obligations.FloatPatternDenotesTheFormula := fun b0 b1 b2 b3 =>
  ⟨floatBits64_sign b0 b1 b2 b3, floatBits64_exponentField b0 b1 b2 b3, floatBits64_fractionField b0 b1 b2 b3,
    binary64Value_floatBits64 b0 b1 b2 b3⟩

/-! ### `FDEC` (R140, R142) -/

/-- The formula of R142 over the bytes themselves. -/
theorem floatValue_eq (b0 b1 b2 b3 : Byte) :
    floatValue b0 b1 b2 b3 =
      (if 128 ≤ b2.toNat then -1 else 1) *
        (1 + ((((b3.toNat % 128) * 65536 + b0.toNat * 256 + b1.toNat) / 2 : Nat) : Rat) / 2 ^ 22) *
        (2 : Rat) ^ (((2 * (b2.toNat % 128) + b3.toNat / 128 : Nat) : Int) - 127) := by
  simp only [floatValue, floatSign_eq_decide, floatExponent_toNat, floatFrac_toNat, floatRawMantissa_toNat,
    decide_eq_true_eq, Config.floatFracBits, Config.floatBias]

/-- A primitive that ends at once with a value changes nothing else. -/
theorem succeed_accept_plainPrimitive (v : Val) (s : State) : PlainPrimitive (.ok v) s (succeed v (accept s)) := by
  constructor <;> constructor <;> simp

theorem exec_fdec (b0 b1 b2 b3 : Byte) (s : State) :
    exec (.fdec b0 b1 b2 b3) s = .next (succeed (.f64 (floatBits64 b0 b1 b2 b3)) (accept s)) := rfl

/-- Settles O21: the record decodes by its `opc` and length, the operation ends at once with the pattern, and the
pattern denotes the formula. -/
theorem fdecReturnsTheValue : Obligations.FdecReturnsTheValue := by
  refine ⟨fun _ _ _ _ _ ho hb => decodeCmd_fdec ho hb, fun _ ho hl => decodeCmd_fdec_length ho hl, ?value⟩
  case value =>
    exact fun b0 b1 b2 b3 s => ⟨_, _, exec_fdec b0 b1 b2 b3 s, succeed_accept_plainPrimitive _ s,
      (binary64Value_floatBits64 b0 b1 b2 b3).trans (floatValue_eq b0 b1 b2 b3)⟩

/-! ### The bit sum (R143) -/

/-- The sum of R143 for `n` bits: bit `n - k` of `x` weighs `2^-(k+1)`, for `k` from 0 to `n - 1`. -/
def weightedBitSum (n x : Nat) : Rat :=
  ((List.range n).map fun k => if x.testBit (n - k) then (1 : Rat) / 2 ^ (k + 1) else 0).sum

/-- The least bit of the sum is bit 1; above it stands the sum of the halved number. -/
theorem weightedBitSum_succ (n x : Nat) :
    weightedBitSum (n + 1) x = weightedBitSum n (x / 2) + ((x / 2 % 2 : Nat) : Rat) / 2 ^ (n + 1) := by
  have hinit : (List.range n).map (fun k => if x.testBit (n + 1 - k) then (1 : Rat) / 2 ^ (k + 1) else 0) =
      (List.range n).map fun k => if (x / 2).testBit (n - k) then (1 : Rat) / 2 ^ (k + 1) else 0 := by
    refine List.map_congr_left fun k hk => ?_
    rw [Nat.sub_add_comm (List.mem_range.1 hk).le, Nat.testBit_succ]
  have hlast : (if x.testBit (n + 1 - n) then (1 : Rat) / 2 ^ (n + 1) else 0) =
      ((x / 2 % 2 : Nat) : Rat) / 2 ^ (n + 1) := by
    rw [Nat.add_sub_cancel_left, Nat.testBit_succ, Nat.testBit_zero]
    rcases Nat.mod_two_eq_zero_or_one (x / 2) with h | h <;> simp [h]
  rw [weightedBitSum, List.range_succ, List.map_append, List.sum_append, hinit, List.map_singleton, List.sum_singleton,
    hlast, weightedBitSum]

theorem weightedBitSum_eq (n x : Nat) : weightedBitSum n x = ((x / 2 % 2 ^ n : Nat) : Rat) / 2 ^ n := by
  induction n generalizing x with
  | zero => simp [weightedBitSum, Nat.mod_one]
  | succ n ih =>
    have hsplit : x / 2 % 2 ^ (n + 1) = x / 2 % 2 + 2 * (x / 2 / 2 % 2 ^ n) := by
      rw [Nat.pow_succ', Nat.mod_mul]
    rw [weightedBitSum_succ, ih, hsplit, pow_succ]
    push_cast
    field_simp
    ring

/-- Settles O23: the sum is `weightedBitSum` of the raw mantissa at 22 bits, and no bit stands above bit 22. -/
theorem fractionIsTheBitSum : Obligations.FractionIsTheBitSum := by
  intro b0 b1 b3
  have hshift : ((floatRawMantissa b0 b1 b3) >>> 1).toNat = (floatRawMantissa b0 b1 b3).toNat / 2 := by
    rw [BitVec.toNat_ushiftRight, Nat.shiftRight_eq_div_pow, Nat.pow_one]
  refine ⟨?sum, (floatFrac_toNat b0 b1 b3).trans hshift.symm⟩
  case sum =>
    have hmod : (floatRawMantissa b0 b1 b3).toNat / 2 % 2 ^ 22 = (floatRawMantissa b0 b1 b3).toNat / 2 := by omega
    have hsum := weightedBitSum_eq 22 (floatRawMantissa b0 b1 b3).toNat
    rwa [hmod, ← hshift] at hsum

/-! ### The range (R145) -/

/-- The sign drops out of the magnitude, and both other factors are positive. -/
theorem abs_floatValue (b0 b1 b2 b3 : Byte) :
    |floatValue b0 b1 b2 b3| =
      (1 + ((floatFrac b0 b1 b3).toNat : Rat) / 2 ^ 22) * (2 : Rat) ^ (((floatExponent b2 b3).toNat : Int) - 127) := by
  have hsign : |(if floatSign b2 then -1 else 1 : Rat)| = 1 := by split <;> simp
  rw [floatValue, abs_mul, abs_mul, hsign, one_mul, Config.floatFracBits, Config.floatBias, abs_of_pos (by positivity),
    abs_of_pos (by positivity)]

/-- Settles O24: the significand lies from 1 to `2 - 2^-22` and the power of two from `2^-127` to `2^128`. -/
theorem floatRange : Obligations.FloatRange := by
  intro b0 b1 b2 b3
  have hfrac : ((floatFrac b0 b1 b3).toNat : Rat) ≤ 2 ^ 22 - 1 := by
    have hlt := (floatFrac b0 b1 b3).isLt
    rw [le_sub_iff_add_le]
    exact_mod_cast hlt
  have hone : (1 : Rat) ≤ 1 + ((floatFrac b0 b1 b3).toNat : Rat) / 2 ^ 22 := le_add_of_nonneg_right (by positivity)
  have hpow : (2 : Rat) ^ (-127 : Int) ≤ 2 ^ (((floatExponent b2 b3).toNat : Int) - 127) :=
    zpow_le_zpow_right₀ one_le_two (by omega)
  rw [abs_floatValue]
  refine ⟨hpow.trans (le_mul_of_one_le_left (by positivity) hone), mul_le_mul ?significand ?power ?_ ?_⟩
  case significand =>
    have hdiv := div_le_div_of_nonneg_right hfrac (show (0 : Rat) ≤ 2 ^ 22 by positivity)
    norm_num at hdiv ⊢
    linarith
  case power => exact (zpow_le_zpow_right₀ one_le_two (by omega)).trans_eq (zpow_natCast 2 128)
  · positivity
  · norm_num

/-! ### The dropped bit (R147) -/

/-- The fields of a pattern can be read back from it. -/
theorem floatBits64_eq_iff (b0 b1 b2 b3 c0 c1 c2 c3 : Byte) :
    floatBits64 b0 b1 b2 b3 = floatBits64 c0 c1 c2 c3 ↔
      floatSign b2 = floatSign c2 ∧ floatExponent b2 b3 = floatExponent c2 c3 ∧
        floatFrac b0 b1 b3 = floatFrac c0 c1 c3 := by
  constructor
  · intro h
    refine ⟨?sign, BitVec.eq_of_toNat_eq ?exponent, BitVec.eq_of_toNat_eq ?fraction⟩
    case sign => rw [← floatBits64_sign b0 b1 b2 b3, h, floatBits64_sign]
    case exponent =>
      have hfield := floatBits64_exponentField b0 b1 b2 b3
      rw [h, floatBits64_exponentField] at hfield
      omega
    case fraction =>
      have hfield := floatBits64_fractionField b0 b1 b2 b3
      rw [h, floatBits64_fractionField] at hfield
      omega
  · rintro ⟨hsign, hexp, hfrac⟩
    rw [floatBits64, hsign, hexp, hfrac, floatBits64]

/-- Settles O25: the pattern keeps the three fields and nothing else, and these are all bits of the bytes but bit 0 of
`b1`. -/
theorem onlyTheDroppedBitIsLost : Obligations.OnlyTheDroppedBitIsLost := by
  intro b0 b1 b2 b3 c0 c1 c2 c3
  rw [floatBits64_eq_iff]
  simp only [← BitVec.toNat_inj, floatSign_eq_decide, decide_eq_decide, floatExponent_toNat, floatFrac_toNat,
    floatRawMantissa_toNat, BitVec.toNat_ushiftRight, Nat.shiftRight_eq_div_pow]
  omega

end Sys2Proof.Machine
end

section
/-! PROOFS. The Frame Codec: the request builders, the reply parsers, and what the checksum of a frame detects (O20,
O26 to O30, O35). -/

namespace Sys2Proof.Machine

open Sys2Proof.Safety

/-! ### A changed byte (R170) -/

/-- Two frames that differ in one byte only have different checksums. -/
theorem checksum16_set_injective {f : List Byte} {k : Nat} (hk : k < f.length) {x y : Byte}
    (h : checksum16 (f.set k x) = checksum16 (f.set k y)) : x = y := by
  simp only [List.set_eq_take_append_cons_drop, hk, if_true, checksum16_append, List.foldl_cons] at h
  exact crcByte_injective_byte _ (foldl_crcByte_injective _ h)

/-- A frame that carries the checksum of its body is that body followed by its own checksum, so it has the residue 0
(R127). -/
theorem checksum16_eq_zero_of_received {f : List Byte} (hf : 2 ≤ f.length)
    (h : checksum16 (replyBody f f.length) = receivedCrc f f.length) : checksum16 f = 0#16 := by
  obtain ⟨body, lo, hi, rfl⟩ : ∃ body lo hi, f = body ++ [lo, hi] := by
    obtain ⟨lo, hi, hend⟩ := List.length_eq_two.1 (show (f.drop (f.length - 2)).length = 2 by simp; omega)
    exact ⟨f.take (f.length - 2), lo, hi, by rw [← hend, List.take_append_drop]⟩
  have hcrc : checksum16 body = join16 hi lo := by simpa [replyBody, receivedCrc, decCrc] using h
  have hresidue := checksumResidueIsZero body
  rwa [hcrc, lo8_join16, hi8_join16] at hresidue

/-- A frame without the residue 0 does not parse. -/
theorem parseRead_error_of_residue {f : List Byte} (hf : 2 ≤ f.length) (h : checksum16 f ≠ 0#16) :
    parseRead f f.length = .error .checksumError :=
  if_neg fun hcrc => h (checksum16_eq_zero_of_received hf hcrc)

/-- A frame that parses has the residue 0. -/
theorem residue_of_parseRead {f data : List Byte} (hf : 2 ≤ f.length) (h : parseRead f f.length = .ok data) :
    checksum16 f = 0#16 := by
  by_contra hne
  rw [parseRead_error_of_residue hf hne] at h
  cases h

/-- Settles O20: the frame has the residue 0, so the changed frame, whose checksum is another, has not. -/
theorem singleByteChangeIsDetected : Obligations.SingleByteChangeIsDetected := by
  intro f k x data hf hk hx hparse
  have hresidue : checksum16 f = 0#16 := residue_of_parseRead (by omega) hparse
  have hchanged : checksum16 (f.set k x) ≠ 0#16 := by
    intro h0
    have hsame : checksum16 (f.set k x) = checksum16 (f.set k f[k]) := by
      rw [h0, List.set_getElem_self, hresidue]
    exact hx (by rw [List.getElem?_eq_getElem hk, checksum16_set_injective hk hsame])
  have herror := parseRead_error_of_residue (f := f.set k x) (by rw [List.length_set]; omega) hchanged
  rwa [List.length_set] at herror

/-! ### The request builders (R160, R172) -/

theorem exec_bldrd {b : Word} (hb : b ≠ 0#16) (a : Word) (s : State) :
    exec (.bldrd a b) s = .next (buildOnly (buildRead a b) s) := if_neg hb

theorem exec_bldwr (a : Word) (vh vl : Byte) (s : State) :
    exec (.bldwr a vh vl) s = .next (buildOnly (buildWrite a (join16 vh vl)) s) := rfl

/-- Settles O26: a word count of 0 is refused, any other is built. -/
theorem bldrdBuildsTheReadRequest : Obligations.BldrdBuildsTheReadRequest :=
  ⟨fun _ ho => decodeCmd_bldrd ho, fun _ _ => rfl,
    fun a b s hb => ⟨_, exec_bldrd hb a s, buildOnly_checksumPrimitive (buildRead a b) s⟩⟩

theorem buildWrite_body (a w : Word) : (buildWrite a w).body = [0x06#8, hi8 a, lo8 a, hi8 w, lo8 w] := rfl

/-- Settles O27: the two value bytes come back out of the word they make. -/
theorem bldwrBuildsTheWriteRequest : Obligations.BldwrBuildsTheWriteRequest := by
  refine ⟨fun _ _ _ ho hb => decodeCmd_bldwr ho hb, fun a vh vl s => ⟨_, exec_bldwr a vh vl s, ?_⟩⟩
  have hprim := buildOnly_checksumPrimitive (buildWrite a (join16 vh vl)) s
  rwa [buildWrite_body, buildWrite_bytes, requestBytes, hi8_join16, lo8_join16] at hprim

/-! ### The reply parsers (R165, R176) -/

/-- A primitive that ends with any result once the engine has run over its payload changes nothing else. -/
theorem complete_runEngine_checksumPrimitive (p : List Byte) (r : Res) (s : State) :
    ChecksumPrimitive p r s (complete r (runEngine p (accept s))) := by
  constructor <;> constructor <;> simp

/-- A primitive that ends at once with any result changes nothing else. -/
theorem complete_accept_plainPrimitive (r : Res) (s : State) : PlainPrimitive r s (complete r (accept s)) := by
  constructor <;> constructor <;> simp

theorem prsrdOperandsOk_iff (f : List Byte) (n : Nat) :
    prsrdOperandsOk f n = true ↔ f.length = n ∧ 6 ≤ n ∧ n % 2 = 0 := by
  simp [prsrdOperandsOk, and_assoc]

theorem exec_prsrd_refused {f : List Byte} {n : Nat} (h : ¬(f.length = n ∧ 6 ≤ n ∧ n % 2 = 0)) (s : State) :
    exec (.prsrd f n) s = .refused .frameLengthOperand := by
  rw [← prsrdOperandsOk_iff, Bool.not_eq_true] at h
  exact if_pos h

/-- The result of `PRSRD`: the payload where the two checksums are equal (R165). -/
def prsrdResult (f : List Byte) (n : Nat) : Res :=
  if checksum16 (replyBody f n) = receivedCrc f n then .ok (.bytes (payload f n)) else .err .checksumError

theorem prsrdResult_eq (f : List Byte) (n : Nat) :
    prsrdResult f n =
      if checksum16 (f.take (n - 2)) = join16 (f.getD (n - 1) 0#8) (f.getD (n - 2) 0#8) then
        .ok (.bytes ((f.take (n - 2)).drop 2)) else .err .checksumError := by
  rw [← payload_eq]
  rfl

theorem exec_prsrd {f : List Byte} {n : Nat} (h : f.length = n ∧ 6 ≤ n ∧ n % 2 = 0) (s : State) :
    exec (.prsrd f n) s = .next (complete (prsrdResult f n) (runEngine (replyBody f n) (accept s))) := by
  have hok : prsrdOperandsOk f n = true := (prsrdOperandsOk_iff f n).2 h
  by_cases hcrc : checksum16 (replyBody f n) = receivedCrc f n
  · simp [exec, execPrsrd, hok, parseRead, prsrdResult, hcrc, succeed]
  · simp [exec, execPrsrd, hok, parseRead, prsrdResult, hcrc, raise]

/-- Settles O28: the operands are checked first; then the engine runs over the body, and the checksums are compared. -/
theorem prsrdParsesTheReply : Obligations.PrsrdParsesTheReply := by
  refine ⟨fun _ ho => decodeCmd_prsrd ho, fun _ _ s h => exec_prsrd_refused h s, fun f n s hn h6 heven => ?_⟩
  refine ⟨_, exec_prsrd ⟨hn, h6, heven⟩ s, ?_⟩
  rw [← prsrdResult_eq]
  exact complete_runEngine_checksumPrimitive (replyBody f n) (prsrdResult f n) s

theorem exec_prswr (sent received : List Byte) (s : State) :
    exec (.prswr sent received) s =
      .next (complete (if received = sent then .ok .unit else .err .registerWriteMismatch) (accept s)) := by
  by_cases h : received = sent
  · simp [exec, execPrswr, parseWrite, h, succeed]
  · simp [exec, execPrswr, parseWrite, h, raise]

/-- Settles O29: the operation ends at once with the outcome of the comparison. -/
theorem prswrComparesTheEcho : Obligations.PrswrComparesTheEcho :=
  ⟨fun _ ho => decodeCmd_prswr ho,
    fun sent received s => ⟨_, exec_prswr sent received s, complete_accept_plainPrimitive _ s⟩⟩

/-- Settles O30: a frame is equal to itself, and nothing else is checked. -/
theorem writeRoundTripParses : Obligations.WriteRoundTripParses := by
  intro a vh vl s t f _ _
  refine ⟨_, exec_prswr f f t, ?_⟩
  rw [if_pos rfl]
  exact (complete_accept_plainPrimitive (.ok .unit) t).presents

/-! ### The blob reads (R264, R265) -/

/-- `SERIAL` and `NAME` are byte blobs of 8 words (R197). -/
theorem blobRow {c : Config} (h : c.Conforming) {r : RegName} (hr : r = .serial ∨ r = .name) :
    (c.row r).kind = .byteBlob ∧ (c.row r).wordCount = 8#16 := by
  obtain ⟨-, -, hserialKind, hserialCount, hnameKind, hnameCount, -⟩ := h
  rcases hr with rfl | rfl
  · exact ⟨hserialKind, hserialCount⟩
  · exact ⟨hnameKind, hnameCount⟩

/-- A byte-blob reply that passes its checks is its payload, unchanged (R180). -/
theorem readResult_blob {f : List Byte} {n : Nat} (hn : f.length = n)
    (hcrc : checksum16 (f.take (n - 2)) = join16 (f.getD (n - 1) 0#8) (f.getD (n - 2) 0#8)) :
    readResult n .byteBlob (some f) = .ok (.bytes (payload f n)) := by
  rw [readResult, if_neg (not_not.2 hn), if_neg (not_not.2 hcrc), decodeValue, payload_eq]

theorem answerOf_scripted {s : State} {a : Option (List Byte)} {x : Bool} {d : Drift} {ts : List Turn}
    (h : s.turns = .scripted a x d :: ts) (c : Call) : answerOf s c = a := by
  simp [answerOf, h, answerTurn]

/-- Settles O35: each is the generic read of a register of 8 words, whose reply of 20 bytes carries 16. -/
theorem blobReadsReturnTheMiddleSixteenBytes : Obligations.BlobReadsReturnTheMiddleSixteenBytes := by
  intro i r hi s f x d ts hc hts hlen hcrc
  have hrow : (i, r) ∈ readOps ∧ (r = .serial ∨ r = .name) := by
    simp only [List.mem_cons, Prod.mk.injEq, List.not_mem_nil, or_false] at hi
    rcases hi with ⟨rfl, rfl⟩ | ⟨rfl, rfl⟩ <;> decide
  obtain ⟨hread, hname⟩ := hrow
  obtain ⟨hkind, hcount⟩ := blobRow hc hname
  have hreply : replyLen (s.cfg.row r).wordCount = 20 := by rw [hcount]; rfl
  have hfits : replyLen (s.cfg.row r).wordCount ≤ s.cfg.rxbufDepth := hreply ▸ depth_of_conforming hc
  obtain ⟨t, hrun, hone⟩ := regRead_oneTransaction hc hfits (by simp [hts])
  refine ⟨t, (exec_read hread s).trans hrun, ?_⟩
  have hn : (readCall s.cfg r).n = 20 := hreply
  have hpresents := hone.presents
  rwa [hn, hkind, answerOf_scripted hts, readResult_blob hlen hcrc] at hpresents

end Sys2Proof.Machine
end

section
/-! PROOFS. The register map: what `LOOKUP` returns, the generic read, and the two validated writes (O31, O32, O33, O36,
O37). -/

namespace Sys2Proof.Machine

open Sys2Proof.Safety

/-! ### The map (R190 to R195) -/

/-- The written-out map is the model's entries, in the order of their numbers. -/
theorem regTable_eq_map (cfg : Config) :
    regTable cfg = RegName.all.map fun r => (r.regid, r, cfg.row r, r.readable, r.writable) := rfl

theorem exec_lookup (r : RegName) (s : State) :
    exec (.lookup r) s = .next (succeed (.entry (s.cfg.entry r)) (accept s)) := rfl

/-- No register has a number above 20 (R104, R190). -/
theorem withRegid_unknown {x : Byte} (h : 20 < x.toNat) (k : RegName → Except DecodeError Instr) :
    withRegid x k = .error .unknownRegid := by
  have hnone : RegName.ofRegid x = none := by
    rw [← Option.not_isSome_iff_eq_none, RegName.ofRegid_isSome]
    omega
  simp [withRegid, hnone]

/-- Settles O31: each row of the written-out map is the model's entry of its name. -/
theorem lookupReturnsTheEntry : Obligations.LookupReturnsTheEntry := by
  refine ⟨fun cfg n r row rd wr hmem => ?row, fun c ho hlarge => ?unknown⟩
  case unknown => exact (decodeCmd_lookup ho).trans (withRegid_unknown hlarge _)
  case row =>
    rw [regTable_eq_map, List.mem_map] at hmem
    obtain ⟨q, -, hq⟩ := hmem
    cases hq
    refine ⟨fun c ho hr => ?decoded, ?run⟩
    case decoded => exact (decodeCmd_lookup ho).trans (hr ▸ withRegid_regid r _)
    case run =>
      rintro s rfl
      exact ⟨_, exec_lookup r s, succeed_accept_plainPrimitive _ s⟩

/-! ### The record of a read -/

/-- The read at place `k` of the list is the one that the register numbered `k` decodes to (R190). -/
theorem decodeRead_of_readOps_getElem? {k : Nat} {i : Instr} {r : RegName} (h : readOps[k]? = some (i, r)) :
    r.regid.toNat = k ∧ decodeRead r = .ok i := by
  have table : ∀ j : Fin readOps.length,
      readOps[j].2.regid.toNat = j ∧ decodeRead readOps[j].2 = .ok readOps[j].1 := by decide
  obtain ⟨hk, hkr⟩ := List.getElem?_eq_some_iff.1 h
  simpa [hkr] using table ⟨k, hk⟩

/-- An `RDREG` record is the read of the register it numbers (R100, R190). -/
theorem decode_read {c : Cmd} {r : RegName} (ho : c.opc = 0x10#8) (hr : c.regid = r.regid) :
    decode (.cmd c) = decodeRead r := by
  change decodeCmd c = _
  rw [decodeCmd_read ho, hr, withRegid_regid]

/-! ### The generic read (R232) -/

/-- A read checks its reply with the Checksum Engine; where no reply of the expected length comes, the engine stays as
the request left it. -/
theorem receive_engineRan_frame {p : Pending} {kind : DecodeKind} (hp : p.expect = .frame kind)
    (a : Option (List Byte)) {s : State} (h : EngineRan (p.call.wbytes.take 5) s) :
    EngineRan (lastChecked p.call a) (receive p a s) := by
  obtain ⟨hacc, hidx, hbit⟩ := h
  cases a with
  | none => exact ⟨hacc, hidx, hbit⟩
  | some f =>
    by_cases hl : f.length = p.call.n
    · rw [receive_reply p s hl, hp, lastChecked, if_pos hl, ← hl]
      obtain ⟨hacc', hidx', hbit'⟩ := checkReply_engine_frame kind f (loadRx f f.length (enter .check s))
      exact ⟨hacc', hidx', hbit'⟩
    · rw [receive_wrongLength p s hl, lastChecked, if_neg hl]
      exact ⟨hacc, hidx, hbit⟩

theorem transact_engineRan_frame {p : Pending} {kind : DecodeKind} (hp : p.expect = .frame kind) {s s' : State}
    (h : Ready s s') (ht : s.turns ≠ []) (hran : EngineRan (p.call.wbytes.take 5) s') :
    EngineRan (lastChecked p.call (answerOf s p.call)) (transact p s') := by
  obtain ⟨t, ts, hts⟩ := List.exists_cons_of_ne_nil ht
  have hanswer : answerOf s p.call = (answerTurn s'.cfg s'.dev p.call t).1 := by simp [answerOf, hts, h.cfg, h.dev]
  obtain ⟨hacc, hidx, hbit⟩ := hran
  rw [transact_cons p (h.turns.trans hts), hanswer]
  exact receive_engineRan_frame hp _ ⟨hacc, hidx, hbit⟩

/-- The read sequence of R232 ran for the register `r`: one call, the request in `TXBUF`, and the Checksum Engine used
last for the reply, if one of the expected length came. -/
structure ReadRan (r : RegName) (s t : State) : Prop where
  ran : OneTransaction (readCall s.cfg r)
    (readResult (readCall s.cfg r).n (s.cfg.row r).kind (answerOf s (readCall s.cfg r))) s t
  tx : t.txbuf.bytes = (readCall s.cfg r).wbytes
  engine : EngineRan (lastChecked (readCall s.cfg r) (answerOf s (readCall s.cfg r))) t

/-- A read of a register with a valid row, whose reply fits `RXBUF`, answered, runs the sequence of R232. -/
theorem regRead_readRan {s : State} {r : RegName} (hok : s.cfg.rowOk r = true)
    (hd : replyLen (s.cfg.row r).wordCount ≤ s.cfg.rxbufDepth) (ht : s.turns ≠ []) :
    ∃ t, regRead r s = .next t ∧ ReadRan r s t := by
  have hrun : regRead r s = .next (framed (buildRead (s.cfg.row r).address (s.cfg.row r).wordCount)
      (replyLen (s.cfg.row r).wordCount) (.frame (s.cfg.row r).kind) (enter .validate (accept s))) := by
    simp [regRead, Config.entry, hok, Nat.not_lt.2 hd]
  refine ⟨_, hrun, ?ran, ?tx, ?engine⟩
  case ran =>
    have hone := framed_oneTransaction (buildRead (s.cfg.row r).address (s.cfg.row r).wordCount)
      (replyLen (s.cfg.row r).wordCount) (.frame (s.cfg.row r).kind) ht
    rwa [readResult_eq _ _ rfl, framedCall_buildRead] at hone
  case tx =>
    rw [framed_eq, transact_txbuf]
    exact buildRead_bytes ..
  case engine =>
    have hran := transact_engineRan_frame
      (p := framedCall (buildRead (s.cfg.row r).address (s.cfg.row r).wordCount) (replyLen (s.cfg.row r).wordCount)
        (.frame (s.cfg.row r).kind)) rfl (ready_framed _ s) ht ⟨rfl, rfl, rfl⟩
    rwa [framedCall_buildRead] at hran

/-- Settles O32: a record's number is the place of its read in the list, and every read is the generic read. -/
theorem readsRunTheGenericSequence : Obligations.ReadsRunTheGenericSequence := by
  refine ⟨fun c i r ho hi => ?decoded, fun i r hi s hc hd ht => ?run⟩
  case decoded =>
    obtain ⟨hnumber, hread⟩ := decodeRead_of_readOps_getElem? hi
    exact (decode_read ho (BitVec.eq_of_toNat_eq hnumber.symm)).trans hread
  case run =>
    obtain ⟨t, hrun, hran⟩ := regRead_readRan (rowOk_of_conforming hc r) hd ht
    exact ⟨t, (exec_read hi s).trans hrun, hran.ran, hran.tx, hran.engine⟩

/-! ### The worked example (R241) -/

/-- The request of R241; R195 fixes the row it is built from. -/
theorem readCall_tempC (c : Config) :
    readCall c .tempC = ⟨0x5F#8, [0x03#8, 0x03#8, 0xEA#8, 0x00#8, 0x02#8, 0xE8#8, 0xC5#8], 8⟩ := by
  have hbytes : requestBytes 0x03#8 0x03EA#16 2#16 = [0x03#8, 0x03#8, 0xEA#8, 0x00#8, 0x02#8, 0xE8#8, 0xC5#8] := by
    decide +kernel
  rw [← hbytes]
  rfl

/-- The reply of R241 is the pattern of 23.5. -/
theorem readResult_tempC_example :
    readResult 8 .ieeeLikeFloat (some [0x03#8, 0x04#8, 0x00#8, 0x00#8, 0x41#8, 0xBC#8, 0x74#8, 0x17#8]) =
      .ok (.f64 0x4037800000000000#64) := by
  decide +kernel

/-- Settles O33: the row of `TEMP_C` is valid under every configuration, so the read runs, with the literal request. -/
theorem temperatureReadSendsTheLiteralRequest : Obligations.TemperatureReadSendsTheLiteralRequest := by
  intro s x c ts hts hd
  obtain ⟨t, hrun, hran⟩ := regRead_readRan (r := .tempC) (s := s) rfl hd (by simp [hts])
  obtain ⟨hone, -, -⟩ := hran
  refine ⟨t, hrun, hone.calls.trans (by rw [readCall_tempC]), ?_⟩
  have hpresents := hone.presents
  rw [answerOf_scripted hts, readCall_tempC] at hpresents
  rwa [← readResult_tempC_example]

/-! ### The validated writes (R256, R257) -/

theorem intervalInRange_iff (v : BitVec 32) : intervalInRange v = true ↔ 99 < v.toInt ∧ v.toInt < 36001 := by
  simp only [intervalInRange, Bool.and_eq_true, decide_eq_true_iff]
  rfl

theorem filterInRange_iff (v : BitVec 32) : filterInRange v = true ↔ 0 < v.toInt ∧ v.toInt < 21 := by
  simp only [filterInRange, Bool.and_eq_true, decide_eq_true_iff]
  rfl

/-- A failed validation ends the operation with nothing done but the validation (R230 step 1). -/
theorem raise_validate_rejectedEarly (f : Failure) (s : State) :
    RejectedEarly f s (raise f (enter .validate (accept s))) := by
  constructor <;> constructor <;> simp

/-- An operand that passes its validation is written as its 16-bit two's-complement form. -/
theorem validatedWrite_accepts {r : RegName} (f : Failure) {inRange : Bool} (v : BitVec 32) {s : State}
    (h : inRange = true) (hc : s.cfg.Conforming) (ht : s.turns ≠ []) :
    ∃ t, validatedWrite r f inRange v s = .next t ∧ WriteRan r (BitVec.ofInt 16 v.toInt) s t := by
  subst h
  rw [← narrow16_eq_ofInt]
  exact regWrite_writeRan r (narrow16 v) hc ht

/-- An operand that fails its validation is rejected, whatever the configuration (log 25). -/
theorem validatedWrite_rejects (r : RegName) (f : Failure) {inRange : Bool} (v : BitVec 32) (s : State)
    (h : ¬inRange = true) : ∃ t, validatedWrite r f inRange v s = .next t ∧ RejectedEarly f s t := by
  rw [Bool.not_eq_true] at h
  subst h
  exact ⟨_, rfl, raise_validate_rejectedEarly f s⟩

/-- Settles O36: the write of `INTERVAL` is the validated write with the bounds of R256. -/
theorem intervalWriteIsValidated : Obligations.IntervalWriteIsValidated := by
  refine ⟨fun c ho hr => decode_write (r := .interval) ho hr,
    fun v s => ⟨fun hlo hhi hc ht => ?accepted, fun h => ?rejected⟩⟩
  case accepted => exact validatedWrite_accepts .invalidIntervalInput v ((intervalInRange_iff v).2 ⟨hlo, hhi⟩) hc ht
  case rejected =>
    rw [← intervalInRange_iff] at h
    exact validatedWrite_rejects .interval .invalidIntervalInput v s h

/-- Settles O37: the write of `FILTER` is the validated write with the bounds of R257. -/
theorem filterWriteIsValidated : Obligations.FilterWriteIsValidated := by
  refine ⟨fun c ho hr => decode_write (r := .filter) ho hr,
    fun v s => ⟨fun hlo hhi hc ht => ?accepted, fun h => ?rejected⟩⟩
  case accepted => exact validatedWrite_accepts .invalidFilterInput v ((filterInRange_iff v).2 ⟨hlo, hhi⟩) hc ht
  case rejected =>
    rw [← filterInRange_iff] at h
    exact validatedWrite_rejects .filter .invalidFilterInput v s h

end Sys2Proof.Machine
end

section
/-! PROOFS. Reads answered by the device machine: the reply it computes passes the checks, and the status word shows the
two flags (O58). -/

namespace Sys2Proof.Machine

open Sys2Proof.Safety

/-! ### The computed reply (R301) -/

/-- The bytes of `n` consecutive words from `a`, high byte first (log 27). -/
def shownBytes (word : Word → Word) (a : Word) (n : Nat) : List Byte :=
  (List.range n).flatMap fun k => enc16 (word (a + BitVec.ofNat 16 k))

theorem shownBytes_length (word : Word → Word) (a : Word) (n : Nat) : (shownBytes word a n).length = 2 * n := by
  simp [shownBytes, enc16, Nat.mul_comm]

theorem shownBytes_one (word : Word → Word) (a : Word) : shownBytes word a 1 = [hi8 (word a), lo8 (word a)] := by
  simp [shownBytes, enc16]

/-- The part of a computed reply that its checksum covers: the header and the words. -/
def readReplyBody (word : Word → Word) (a n : Word) : List Byte :=
  Config.fcRead :: BitVec.ofNat 8 (2 * n.toNat) :: shownBytes word a n.toNat

theorem readReply_eq (word : Word → Word) (a n : Word) :
    readReply word a n = readReplyBody word a n ++
      [lo8 (checksum16 (readReplyBody word a n)), hi8 (checksum16 (readReplyBody word a n))] := rfl

theorem readReplyBody_length (word : Word → Word) (a n : Word) : (readReplyBody word a n).length = 2 * n.toNat + 2 := by
  simp [readReplyBody, shownBytes_length]

/-- A reply that carries the checksum of its body passes the checks of a read (R232). -/
theorem readResult_checksummed (kind : DecodeKind) {body : List Byte} {n : Nat} (hn : n = body.length + 2) :
    readResult n kind (some (body ++ [lo8 (checksum16 body), hi8 (checksum16 body)])) =
      .ok (decodeValue kind (body.drop 2)) := by
  subst hn
  simp [readResult]

/-- A computed reply passes the checks, and its words are decoded (R180). -/
theorem readResult_readReply (kind : DecodeKind) (word : Word → Word) (a n : Word) :
    readResult (replyLen n) kind (some (readReply word a n)) = .ok (decodeValue kind (shownBytes word a n.toNat)) := by
  have hn : replyLen n = (readReplyBody word a n).length + 2 := by rw [readReplyBody_length, replyLen]
  rw [readReply_eq, readResult_checksummed kind hn]
  rfl

/-- A device that answers reads of mapped registers answers the request of a register's read (R301). -/
theorem deviceReply_readBytes {cfg : Config} (h : cfg.Conforming) (word : RegName → Word → Word) (r : RegName) :
    deviceReply cfg word (requestBytes 0x03#8 (cfg.row r).address (cfg.row r).wordCount) =
      some (readReply (word r) (cfg.row r).address (cfg.row r).wordCount) := by
  simp [deviceReply, readRequest_readBytes, nameAt_row h]

theorem answerOf_faithful_read {s : State} {c : Drift} {ts : List Turn} (hc : s.cfg.Conforming)
    (hts : s.turns = .faithful c :: ts) (r : RegName) :
    answerOf s (readCall s.cfg r) =
      some (readReply (s.dev.shownWord s.cfg r) (s.cfg.row r).address (s.cfg.row r).wordCount) := by
  rw [← deviceReply_readBytes hc]
  simp [answerOf, hts, answerTurn, readCall, Config.periphAddr]

/-- Under the device machine a read gives the words that the device shows, in the kind of its register. -/
theorem exec_read_faithful {s : State} {c : Drift} {ts : List Turn} {i : Instr} {r : RegName} (hi : (i, r) ∈ readOps)
    (hc : s.cfg.Conforming) (hd : replyLen (s.cfg.row r).wordCount ≤ s.cfg.rxbufDepth)
    (hts : s.turns = .faithful c :: ts) :
    ∃ t, exec i s = .next t ∧ Presents (.ok (decodeValue (s.cfg.row r).kind
      (shownBytes (s.dev.shownWord s.cfg r) (s.cfg.row r).address (s.cfg.row r).wordCount.toNat))) t := by
  obtain ⟨t, hrun, hone⟩ := regRead_oneTransaction hc hd (by simp [hts])
  refine ⟨t, (exec_read hi s).trans hrun, ?_⟩
  rw [← readResult_readReply, ← answerOf_faithful_read hc hts]
  exact hone.presents

/-! ### The status word (R213, R267) -/

/-- Replacing bit `k` changes that bit alone. -/
theorem getLsbD_setBit (w : Word) {k i : Nat} (hi : i < 16) (b : Bool) :
    (setBit w k b).getLsbD i = if i = k then b else w.getLsbD i := by
  rcases Nat.lt_trichotomy i k with h | rfl | h
  · cases b <;> simp [setBit, hi, h, h.ne]
  · cases b <;> simp [setBit, hi]
  · cases b <;> simp [setBit, hi, h.ne', Nat.sub_ne_zero_of_lt h]

/-- The word that the device shows at `STATUS`: its content with the two flags put in (R213, log 28). -/
def statusWord (cfg : Config) (d : Device) : Word :=
  setBit (setBit (Memory.wordAt d.content Config.unknownByte (cfg.row .status).address) cfg.bitDataReady.val d.dataReady)
    cfg.bitTrigReady.val d.trigReady

theorem shownWord_status {cfg : Config} (h : cfg.Conforming) (d : Device) :
    d.shownWord cfg .status (cfg.row .status).address = statusWord cfg d := by
  have hmode : (cfg.row .status).address ≠ (cfg.row .mode).address := address_ne h (by decide)
  simp [Device.shownWord, RegName.isMeasurement, hmode, statusWord]

theorem triggerReady_statusWord (cfg : Config) (d : Device) : triggerReady cfg (statusWord cfg d) = d.trigReady := by
  rw [triggerReady, statusWord, getLsbD_setBit _ cfg.bitTrigReady.isLt, if_pos rfl]

/-- The two flags have different bits, so the later one leaves the earlier (R7). -/
theorem dataReady_statusWord {cfg : Config} (h : cfg.Conforming) (d : Device) :
    dataReady cfg (statusWord cfg d) = d.dataReady := by
  obtain ⟨-, -, -, -, -, -, -, -, -, hbits, -⟩ := h
  rw [dataReady, statusWord, getLsbD_setBit _ cfg.bitDataReady.isLt, if_neg (Fin.val_ne_of_ne hbits),
    getLsbD_setBit _ cfg.bitDataReady.isLt, if_pos rfl]

theorem wordCount_status {cfg : Config} (h : cfg.Conforming) : (cfg.row .status).wordCount = 1#16 := by
  obtain ⟨-, -, -, -, -, -, hcount, -⟩ := h
  exact hcount

/-- Settles O58: the read gives the one word shown at `STATUS`, and its two bits are the flags. -/
theorem statusPollShowsTheFlags : Obligations.StatusPollShowsTheFlags := by
  intro s c ts hc hts
  have hcount := wordCount_status hc
  have hfits : replyLen (s.cfg.row .status).wordCount ≤ s.cfg.rxbufDepth := by
    have hdepth := depth_of_conforming hc
    rw [hcount, show replyLen 1#16 = 6 from rfl]
    omega
  obtain ⟨t, hrun, hpresents⟩ := exec_read_faithful (i := .rdregStatus) (r := .status) (by decide) hc hfits hts
  rw [hcount, show (1#16 : Word).toNat = 1 from rfl, shownBytes_one, shownWord_status hc] at hpresents
  exact ⟨t, statusWord s.cfg s.dev, hrun, hpresents, triggerReady_statusWord s.cfg s.dev,
    dataReady_statusWord hc s.dev⟩

end Sys2Proof.Machine
end

section
/-! PROOFS. The trigger write, and the mode read after a mode write under the device machine (O40, O57). -/

namespace Sys2Proof.Machine

open Sys2Proof.Safety

/-- Settles O40: the write of `TRIGGER` is the generic write of the trigger word, with nothing checked before it. -/
theorem triggerAlwaysSends : Obligations.TriggerAlwaysSends :=
  ⟨fun _ ho hr => decode_write (r := .trigger) ho hr,
    fun s hc ht => regWrite_writeRan .trigger s.cfg.trigVal hc ht⟩

/-! ### A write answered by the device machine (R292, R301) -/

/-- The device machine answers the write of a writable register with its echo. -/
theorem answerOf_faithful_write {s : State} {c : Drift} {ts : List Turn} (hc : s.cfg.Conforming)
    (hts : s.turns = .faithful c :: ts) {r : RegName} (hr : r.writable = true) (w : Word) :
    answerOf s (writeCall s.cfg r w) = some (writeCall s.cfg r w).wbytes := by
  simp [answerOf, hts, answerTurn, writeCall, Config.periphAddr, deviceReply, readRequest_writeBytes, writableAt_row hc,
    hr]

/-- Under the device machine every framed request reaches the device. -/
theorem deviceAfter_faithful {s : State} {c : Drift} {ts : List Turn} (hts : s.turns = .faithful c :: ts) (call : Call)
    (ha : call.addr = Config.periphAddr) : deviceAfter s call = s.dev.receive s.cfg call.wbytes c := by
  simp [deviceAfter, hts, answerTurn, ha]

/-- The echo of a write request is its success (R236). -/
theorem writeResult_echo (cfg : Config) (r : RegName) (w : Word) :
    writeResult (writeCall cfg r w).wbytes (some (writeCall cfg r w).wbytes) = .ok .unit := by
  simp [writeResult, writeCall, requestBytes]

/-- Under the device machine the generic write of a writable register succeeds, and the device receives its frame. -/
theorem regWrite_faithful {s : State} {c : Drift} {ts : List Turn} (hc : s.cfg.Conforming)
    (hts : s.turns = .faithful c :: ts) {r : RegName} (hr : r.writable = true) (w : Word) :
    ∃ t, regWrite r w (enter .validate (accept s)) = .next t ∧ Presents (.ok .unit) t ∧ t.cfg = s.cfg ∧ t.turns = ts ∧
      t.dev = s.dev.receive s.cfg (requestBytes 0x06#8 (s.cfg.row r).address w) c := by
  obtain ⟨t, hrun, hran, -, -⟩ := regWrite_writeRan r w hc (by simp [hts])
  refine ⟨t, hrun, ?presents, hran.port.cfg, hran.turns.trans (by rw [hts]; rfl), ?dev⟩
  case presents =>
    rw [← writeResult_echo s.cfg r w, ← answerOf_faithful_write hc hts hr w]
    exact hran.presents
  case dev => exact hran.dev.trans (deviceAfter_faithful hts _ rfl)

/-! ### The mode word (R212, R266) -/

/-- A writable register has one word (R196). -/
theorem wordCount_of_writable {cfg : Config} (h : cfg.Conforming) {r : RegName} (hr : r.writable = true) :
    (cfg.row r).wordCount = 1#16 := by
  have hok := rowOk_of_conforming h r
  simp only [Config.rowOk, hr, MapRow.writableOk, Bool.not_true, Bool.false_or, Bool.and_eq_true, beq_iff_eq] at hok
  obtain ⟨⟨-, hcount, -⟩, -⟩ := hok
  exact hcount

theorem shownWord_mode (cfg : Config) (d : Device) :
    d.shownWord cfg .mode (cfg.row .mode).address = modeWord cfg d.mode := by
  simp [Device.shownWord, RegName.isMeasurement]

/-- The mode is read back from the word that encodes it: the two words differ (R7). -/
theorem modeOf_modeWord {cfg : Config} (h : cfg.Conforming) (m : Mode) : modeOf cfg (modeWord cfg m) = some m := by
  cases m with
  | continuous => exact modeOf_modeContinuous cfg
  | singleShot => exact modeOf_modeSingleShot h

/-- A write frame to `MODE` with the word of a mode sets that mode (R292). -/
theorem receive_modeWord {cfg : Config} (h : cfg.Conforming) (m : Mode) (c : Drift) (d : Device) :
    (d.receive cfg (requestBytes 0x06#8 (cfg.row .mode).address (modeWord cfg m)) c).mode = m := by
  rw [receive_writeBytes, drift_mode, receiveWrite_mode_atMode, modeOf_modeWord h, Option.getD_some]

/-- The two operands of `WRREG.MODE` send the words of the two modes (R261). -/
theorem exec_wrregMode {v : BitVec 32} {m : Mode}
    (h : (v, m) ∈ [(0#32, Mode.continuous), (1#32, .singleShot)]) (s : State) :
    exec (.wrregMode v) s = regWrite .mode (modeWord s.cfg m) (enter .validate (accept s)) := by
  simp only [List.mem_cons, Prod.mk.injEq, List.not_mem_nil, or_false] at h
  rcases h with ⟨rfl, rfl⟩ | ⟨rfl, rfl⟩ <;> rfl

/-- Under the device machine the read of `MODE` gives the word of the device's mode. -/
theorem exec_rdregMode_faithful {s : State} {c : Drift} {ts : List Turn} (hc : s.cfg.Conforming)
    (hts : s.turns = .faithful c :: ts) :
    ∃ t, exec .rdregMode s = .next t ∧ Presents (.ok (decodeValue (s.cfg.row .mode).kind
      [hi8 (modeWord s.cfg s.dev.mode), lo8 (modeWord s.cfg s.dev.mode)])) t := by
  have hcount : (s.cfg.row .mode).wordCount = 1#16 := wordCount_of_writable hc rfl
  have hfits : replyLen (s.cfg.row .mode).wordCount ≤ s.cfg.rxbufDepth := by
    have hdepth := depth_of_conforming hc
    rw [hcount, show replyLen 1#16 = 6 from rfl]
    omega
  have hread := exec_read_faithful (i := .rdregMode) (r := .mode) (by decide) hc hfits hts
  rwa [hcount, show (1#16 : Word).toNat = 1 from rfl, shownBytes_one, shownWord_mode] at hread

/-- Settles O57: the mode write leaves the device in the mode written, and the read shows the word of that mode. -/
theorem modeReadAfterModeWriteShowsTheMode : Obligations.ModeReadAfterModeWriteShowsTheMode := by
  intro s c₁ c₂ ts v mode hc hts hv
  obtain ⟨t, hwrite, hwritten, hcfg, hturns, hdev⟩ :=
    regWrite_faithful hc hts (r := .mode) rfl (modeWord s.cfg mode)
  have hmode : t.dev.mode = mode := hdev ▸ receive_modeWord hc mode c₁ s.dev
  obtain ⟨u, hread, hshown⟩ := exec_rdregMode_faithful (hcfg.symm ▸ hc) hturns
  rw [hcfg, hmode] at hshown
  exact ⟨t, u, modeWord s.cfg mode, (exec_wrregMode hv s).trans hwrite, hwritten, hread, hshown,
    modeOf_modeWord hc mode⟩

end Sys2Proof.Machine
end

section
/-! PROOFS. How many transport calls an operation makes (O45). -/

namespace Sys2Proof.Machine

open Sys2Proof.Safety

/-! ### The calls of an operation that ends at once, and of one that makes a transaction -/

/-- The failures of VALIDATE (R314, R315). -/
def Failure.isValidation : Failure → Bool
  | .invalidIntervalInput | .invalidFilterInput => true
  | .notAcknowledged | .checksumError | .registerWriteMismatch => false

/-- CHECK and DECODE raise no failure of VALIDATE. -/
theorem checkedResult_not_validation {x : Expect} {r : List Byte} {q : Request} {l : BulkLayout} {f : Failure}
    (h : checkedResult x r q l = .err f) : f.isValidation = false := by
  cases x with
  | frame kind =>
    simp only [checkedResult, parseRead] at h
    split at h
    · cases h
    case h_2 hp =>
      split at hp <;> cases hp
      cases h
      rfl
  | echo =>
    simp only [checkedResult] at h
    split at h <;> cases h
    rfl
  | bulk => cases h

/-- No answer of the transport gives a failure of VALIDATE. -/
theorem answeredResult_not_validation {p : Pending} {a : Option (List Byte)} {q : Request} {l : BulkLayout}
    {f : Failure} (h : answeredResult p a q l = .err f) : f.isValidation = false := by
  cases a with
  | none => cases h; rfl
  | some r =>
    simp only [answeredResult] at h
    split at h
    · exact checkedResult_not_validation h
    · cases h; rfl

theorem MakesCall.calls {s t : State} {p : Pending} {o : Host.Outcome State Fault Refusal} (h : MakesCall s p o)
    (ho : o = .next t) : t.calls = [p.call] := by
  obtain ⟨s', hr, -, -, -, rfl⟩ := h
  cases ho
  simp [hr.calls]

/-- An operation that has made its call has no result yet, or one that is no failure of VALIDATE. -/
theorem MakesCall.not_validation {s t : State} {p : Pending} {o : Host.Outcome State Fault Refusal}
    (h : MakesCall s p o) (ho : o = .next t) {f : Failure} (hf : t.res = some (.err f)) : f.isValidation = false := by
  obtain ⟨s', hr, -, -, -, rfl⟩ := h
  cases ho
  cases hs : s'.turns with
  | nil => simp [transact_nil p hs, hr.res] at hf
  | cons turn ts =>
    rw [transact_cons p hs, receive_res, Option.some.injEq] at hf
    exact answeredResult_not_validation hf

theorem EndsAtOnce.res {s t : State} {r : Res} {o : Host.Outcome State Fault Refusal} (h : EndsAtOnce s r o)
    (ho : o = .next t) : t.res = some r := by
  obtain ⟨s', -, -, -, rfl⟩ := h
  cases ho
  rfl

/-- No operation makes two calls (R231). -/
theorem exec_calls_length {i : Instr} {s t : State} (h : exec i s = .next t) : t.calls.length ≤ 1 := by
  rcases exec_cases i s with ⟨x, hx⟩ | ⟨r, hend⟩ | ⟨p, hcall⟩
  · rw [hx] at h; cases h
  · simp [(hend.calls_dev h).1]
  · simp [hcall.calls h]

/-! ### The primitives -/

/-- A primitive makes no call (R101, R231). -/
theorem exec_primitive_calls {i : Instr} {s t : State} (hi : isPrimitive i = true) (h : exec i s = .next t) :
    t.calls = [] := by
  cases i with
  | crc16 p => rw [exec_crc16] at h; cases h; rfl
  | fdec b0 b1 b2 b3 => rw [exec_fdec] at h; cases h; rfl
  | bldrd a b =>
    by_cases hb : b = 0#16
    · simp [exec, execBldrd, hb] at h
    · rw [exec_bldrd hb] at h; cases h; rfl
  | prsrd f n =>
    by_cases hf : f.length = n ∧ 6 ≤ n ∧ n % 2 = 0
    · rw [exec_prsrd hf] at h; cases h; rfl
    · rw [exec_prsrd_refused hf] at h; cases h
  | bldwr a vh vl => rw [exec_bldwr] at h; cases h; rfl
  | prswr sent received => rw [exec_prswr] at h; cases h; rfl
  | lookup r => rw [exec_lookup] at h; cases h; rfl
  | _ => cases hi

/-! ### The client operations -/

/-- A client operation is refused, or fails VALIDATE without a call, or makes its one call (R230, R231). -/
def ValidatesThenCalls (s : State) (o : Host.Outcome State Fault Refusal) : Prop :=
  (∃ x, o = .refused x) ∨ (∃ f : Failure, f.isValidation = true ∧ EndsAtOnce s (.err f) o) ∨ ∃ p, MakesCall s p o

theorem regRead_validatesThenCalls (r : RegName) (s : State) : ValidatesThenCalls s (regRead r s) :=
  (regRead_cases r s).imp_right fun h => .inr ⟨_, h⟩

theorem regWrite_validatesThenCalls (r : RegName) (w : Word) (s : State) :
    ValidatesThenCalls s (regWrite r w (enter .validate (accept s))) :=
  (regWrite_cases r w s).imp_right fun h => .inr ⟨_, h⟩

theorem writeValue_validatesThenCalls (r : RegName) (v : BitVec 32) (s : State) :
    ValidatesThenCalls s (writeValue r v s) :=
  (writeValue_cases r v s).imp_right fun ⟨_, h⟩ => .inr ⟨_, h⟩

theorem validatedWrite_validatesThenCalls (r : RegName) {f : Failure} (hf : f.isValidation = true) (b : Bool)
    (v : BitVec 32) (s : State) : ValidatesThenCalls s (validatedWrite r f b v s) :=
  (validatedWrite_cases r f b v s).imp_right (Or.imp (⟨f, hf, ·⟩) (⟨_, ·⟩))

theorem exec_wrregMode_validatesThenCalls (v : BitVec 32) (s : State) :
    ValidatesThenCalls s (exec (.wrregMode v) s) := by
  by_cases h0 : v = 0#32
  · rw [exec_wrregMode (m := .continuous) (by simp [h0])]
    exact regWrite_validatesThenCalls ..
  by_cases h1 : v = 1#32
  · rw [exec_wrregMode (m := .singleShot) (by simp [h1])]
    exact regWrite_validatesThenCalls ..
  · exact .inl ⟨_, exec_wrregMode_refused h0 h1 s⟩

theorem exec_getall_makesCall (s : State) : MakesCall s (bulkPending s.cfg) (exec .getall s) := by
  refine ⟨_, ready_bulk s, rfl, .inr rfl, fun hdepth => ?_, exec_getall s⟩
  simp only [bulkPending, Config.bulkLen]
  omega

/-- A read of the list is the generic read of its register. -/
theorem exec_read_validatesThenCalls {i : Instr} (hi : (readOps.any fun p => p.1 == i) = true) (s : State) :
    ValidatesThenCalls s (exec i s) := by
  obtain ⟨⟨j, r⟩, hmem, hj⟩ := List.any_eq_true.1 hi
  obtain rfl : j = i := eq_of_beq hj
  rw [exec_read hmem]
  exact regRead_validatesThenCalls r s

/-- Every client operation is so: the writes and `GETALL` by their definitions, any other only as a read of the list. -/
theorem exec_client_cases {i : Instr} (hi : isClient i = true) (s : State) : ValidatesThenCalls s (exec i s) := by
  cases i with
  | getall => exact .inr (.inr ⟨_, exec_getall_makesCall s⟩)
  | wrregInterval v => exact validatedWrite_validatesThenCalls .interval rfl _ v s
  | wrregFilter v => exact validatedWrite_validatesThenCalls .filter rfl _ v s
  | wrregOffset v => exact writeValue_validatesThenCalls .offset v s
  | wrregCust1 v => exact writeValue_validatesThenCalls .cust1 v s
  | wrregCust2 v => exact writeValue_validatesThenCalls .cust2 v s
  | wrregMode v => exact exec_wrregMode_validatesThenCalls v s
  | wrregTrigger => exact regWrite_validatesThenCalls .trigger s.cfg.trigVal s
  | _ => exact exec_read_validatesThenCalls hi s

/-- Settles O45: a client operation that ends at once ends with a failure of VALIDATE, and one that makes its call never
does. -/
theorem transactionCountIsAtMostOne : Obligations.TransactionCountIsAtMostOne := by
  refine fun i s t h => ⟨exec_calls_length h, fun hi => exec_primitive_calls hi h, fun hi => ?_⟩
  rcases exec_client_cases hi s with ⟨x, hx⟩ | ⟨f, hf, hend⟩ | ⟨p, hcall⟩
  · rw [hx] at h; cases h
  · have hres := hend.res h
    refine ⟨fun _ => (hend.calls_dev h).1, fun hinterval hfilter => ?_⟩
    cases f with
    | invalidIntervalInput => exact absurd hres hinterval
    | invalidFilterInput => exact absurd hres hfilter
    | _ => cases hf
  · have hnot {f : Failure} (hf : f.isValidation = true) : t.res ≠ some (.err f) := fun hres =>
      Bool.false_ne_true ((hcall.not_validation h hres).symm.trans hf)
    refine ⟨fun hres => ?_, fun _ _ => by simp [hcall.calls h]⟩
    exact absurd hres (not_or.2 ⟨hnot rfl, hnot rfl⟩)

end Sys2Proof.Machine
end

section
/-! PROOFS. The device's mode and its measurements: what a delivered mode write and a delivered trigger do, and what the
device does by itself (O51, O52, O53). -/

namespace Sys2Proof.Machine

open Sys2Proof.Safety

/-! ### A delivered write (R292, R293, R324) -/

/-- The rows of the statement are the two operands of `WRREG.MODE`, each with the word of its mode (R212, R261). -/
theorem modeWord_of_mem {cfg : Config} {v : BitVec 32} {w : Word} {m : Mode}
    (h : (v, w, m) ∈ [(0#32, cfg.modeContinuous, Mode.continuous), (1#32, cfg.modeSingleShot, .singleShot)]) :
    (v, m) ∈ [(0#32, Mode.continuous), (1#32, .singleShot)] ∧ w = modeWord cfg m := by
  simp only [List.mem_cons, Prod.mk.injEq, List.not_mem_nil, or_false] at h
  rcases h with ⟨rfl, rfl, rfl⟩ | ⟨rfl, rfl, rfl⟩
  · exact ⟨by simp, rfl⟩
  · exact ⟨by simp, rfl⟩

/-- A write that reaches the device is received as its frame. -/
theorem deviceAfter_writeCall_received {s : State} {answer : Option (List Byte)} {x : Bool} {c : Drift} {ts : List Turn}
    (h : s.turns = .scripted answer x c :: ts) {r : RegName} {w : Word}
    (hx : x = true ∨ answer = some (writeCall s.cfg r w).wbytes) :
    deviceAfter s (writeCall s.cfg r w) = s.dev.receive s.cfg (requestBytes 0x06#8 (s.cfg.row r).address w) c := by
  rw [deviceAfter_framed h _ rfl, if_pos hx]
  rfl

/-- Settles O51: the write makes the one call of its mode word, which the device receives or does not see. -/
theorem deliveredModeWriteSetsTheMode : Obligations.DeliveredModeWriteSetsTheMode := by
  intro s answer x c ts hc hts v word mode hv
  obtain ⟨hoperand, rfl⟩ := modeWord_of_mem hv
  obtain ⟨t, hrun, hran, -, -⟩ := regWrite_writeRan .mode (modeWord s.cfg mode) hc (by simp [hts])
  refine ⟨t, (exec_wrregMode hoperand s).trans hrun, fun hreach => ?reached, fun hx hecho => ?lost⟩
  case reached =>
    rw [hran.dev, deviceAfter_writeCall_received hts hreach]
    exact receive_modeWord hc mode c s.dev
  case lost =>
    rw [hran.dev, deviceAfter_writeCall_lost hts hx hecho, drift_mode]

/-- Settles O52: the device receives the trigger frame, and what it makes of it turns on `triggerMeaningful`. -/
theorem triggerStartsAMeasurement : Obligations.TriggerStartsAMeasurement := by
  intro s answer c ts hc hts
  obtain ⟨t, hrun, hran, -, -⟩ := regWrite_writeRan .trigger s.cfg.trigVal hc (by simp [hts])
  have hdev : t.dev = s.dev.receive s.cfg (requestBytes 0x06#8 (s.cfg.row .trigger).address s.cfg.trigVal) c :=
    hran.dev.trans (deviceAfter_writeCall_received hts (.inl rfl))
  obtain ⟨hmode, hstarts, hunsettles⟩ := receive_atTrigger hc s.cfg.trigVal c s.dev
  rw [← hdev] at hmode hstarts hunsettles
  refine ⟨t, hrun, hmode, fun hm hset htr hp => hstarts ?meaningful, fun hno => hunsettles ?meaningless⟩
  case meaningful => exact (triggerMeaningful_iff s.cfg _ s.dev).2 ⟨hm, hset, htr, hp, rfl⟩
  case meaningless =>
    refine Bool.eq_false_iff.2 fun hmean => ?_
    obtain ⟨hm, -, htr, hp, -⟩ := (triggerMeaningful_iff s.cfg _ s.dev).1 hmean
    simp [hm, htr, hp] at hno

/-! ### The device's own move (R293) -/

/-- The device's move finishes a measurement: the move is to finish one, and one is pending in SingleShot, settled. -/
def Device.Finishes (finish : Bool) (d : Device) : Prop :=
  finish = true ∧ d.mode = .singleShot ∧ d.settled = true ∧ d.phase = .pending

theorem ownMove_of_finishes {finish : Bool} {d : Device} (c : Drift) (h : d.Finishes finish) :
    d.ownMove finish c =
      { d.drift c with phase := .available, dataReady := true, measurements := d.measurements + 1 } := by
  obtain ⟨hf, hm, hs, hp⟩ := h
  simp [Device.ownMove, hf, hm, hs, hp]

theorem ownMove_of_not_finishes {finish : Bool} {d : Device} (c : Drift) (h : ¬d.Finishes finish) :
    d.ownMove finish c = d.drift c := by
  rw [Device.ownMove, if_neg]
  simpa [Device.Finishes, and_assoc] using h

/-- In SingleShot, settled, no drift starts a measurement (R293). -/
theorem pending_of_driftPhase {c : Drift} {d : Device} (hm : d.mode = .singleShot) (hs : d.settled = true)
    (h : d.driftPhase c = .pending) : d.phase = .pending := by
  simp only [Device.driftPhase, Device.phaseFree, hm, hs] at h
  by_cases hidle : d.phase = .available ∧ c.phase = some .idle
  · simp [hidle] at h
  · simpa [hidle] using h

/-- Settles O53: the device finishes the pending measurement, or drifts. -/
theorem deviceFinishesAMeasurement : Obligations.DeviceFinishesAMeasurement := by
  intro s finish c ms hs
  refine ⟨s.dev.ownMove finish c, step_device hs, ownMove_mode finish c s.dev, ?_⟩
  by_cases hfin : s.dev.Finishes finish
  · rw [ownMove_of_finishes c hfin]
    obtain ⟨hf, -, -, hp⟩ := hfin
    exact ⟨fun _ _ _ _ => ⟨rfl, rfl, rfl⟩, fun _ _ _ => hp, fun _ _ _ => .inr ⟨hf, hp⟩⟩
  · rw [ownMove_of_not_finishes c hfin]
    exact ⟨fun hf hm hset hp => absurd ⟨hf, hm, hset, hp⟩ hfin, pending_of_driftPhase,
      fun hm hset hready => .inl (driftDataReady_settled hm hset hready)⟩

end Sys2Proof.Machine
end

section
/-! PROOFS. The values that reads give: a written word on the reference device, and the fresh measurement on the device
machine (O56, O60). -/

namespace Sys2Proof.Machine

open Sys2Proof.Safety

/-! ### The fresh measurement (R293, R296) -/

/-- A word of bytes without a value is made of the two bytes given for them. -/
theorem enc16_wordAt_nil (dflt : Nat → Byte) (a : Word) :
    enc16 (Memory.wordAt [] dflt a) = [dflt (Memory.cellHi a), dflt (Memory.cellLo a)] := by
  simp [enc16, Memory.wordAt, Memory.read]

/-- While fresh, the words shown in a measurement register are the last measurement's (log 35). -/
theorem shownBytes_of_fresh (cfg : Config) {d : Device} {r : RegName} (hr : r.isMeasurement = true)
    (hd : d.fresh = true) (a : Word) (n : Nat) :
    shownBytes (d.shownWord cfg r) a n = measuredBytes d.measurements a n := by
  have hshown (b : Word) : d.shownWord cfg r b = Memory.wordAt [] (Config.measured d.measurements) b := by
    simp [Device.shownWord, hr, hd]
  simp only [shownBytes, measuredBytes, hshown, enc16_wordAt_nil]

/-- Settles O60: the device machine shows the measurement's bytes, and the read decodes them. -/
theorem measurementReadShowsTheFreshSample : Obligations.MeasurementReadShowsTheFreshSample := by
  intro i r hi hr s c ts hc hfits hts hmode hsettled hphase hready
  have hfresh : s.dev.fresh = true := by simp [Device.fresh, hmode, hsettled, hphase, hready]
  rw [← shownBytes_of_fresh s.cfg hr hfresh]
  exact exec_read_faithful hi hc hfits hts

/-! ### The reference device (R301) -/

/-- A stored word is what stands at its address. -/
theorem wordAt_writeWord (m : Memory) (dflt : Nat → Byte) (a w : Word) :
    Memory.wordAt (Memory.writeWord m a w) dflt a = w := by
  simp [Memory.wordAt, Memory.read_writeWord_hi, Memory.read_writeWord_lo]

/-- An operand that the register's kind encodes is written as its word (R250). -/
theorem writeValue_of_encodes {s : State} {r : RegName} {v : BitVec 32} {w : Word}
    (h : encodeValue (s.cfg.row r).kind v = some w) :
    writeValue r v s = regWrite r w (enter .validate (accept s)) := by
  simp [writeValue, Config.entry, h]

/-- The read of a writable register fits `RXBUF` (R196, R7). -/
theorem replyLen_le_of_writable {cfg : Config} (h : cfg.Conforming) {r : RegName} (hr : r.writable = true) :
    replyLen (cfg.row r).wordCount ≤ cfg.rxbufDepth := by
  have hdepth := depth_of_conforming h
  rw [wordCount_of_writable h hr, show replyLen 1#16 = 6 from rfl]
  omega

section ReferenceTurn

variable {s : State} {ts : List Turn} {r : RegName}

/-- The reference device echoes the write of a writable register and receives its frame, with no drift. -/
theorem answerTurn_reference_write {cfg : Config} (h : cfg.Conforming) (d : Device) (hr : r.writable = true)
    (w : Word) :
    answerTurn cfg d (writeCall cfg r w) .reference =
      (some (writeCall cfg r w).wbytes, d.receive cfg (writeCall cfg r w).wbytes {}) := by
  simp [answerTurn, writeCall, Config.periphAddr, deviceReply, readRequest_writeBytes, writableAt_row h, hr]

/-- On the reference device the generic write of a plain register succeeds and stores its word. -/
theorem regWrite_reference (hc : s.cfg.Conforming) (hts : s.turns = .reference :: ts) (hr : r.writable = true)
    (w : Word) :
    ∃ t, regWrite r w (enter .validate (accept s)) = .next t ∧ Presents (.ok .unit) t ∧ t.cfg = s.cfg ∧ t.turns = ts ∧
      t.dev.content = Memory.writeWord s.dev.content (s.cfg.row r).address w := by
  obtain ⟨t, hrun, hran, -, -⟩ := regWrite_writeRan r w hc (by simp [hts])
  have hanswer : answerOf s (writeCall s.cfg r w) = some (writeCall s.cfg r w).wbytes := by
    simp [answerOf, hts, answerTurn_reference_write hc s.dev hr w]
  have hdev : t.dev = s.dev.receive s.cfg (writeCall s.cfg r w).wbytes {} := by
    rw [hran.dev]
    simp [deviceAfter, hts, answerTurn_reference_write hc s.dev hr w]
  refine ⟨t, hrun, ?presents, hran.port.cfg, hran.turns.trans (by rw [hts]; rfl), ?content⟩
  case presents =>
    rw [← writeResult_echo s.cfg r w, ← hanswer]
    exact hran.presents
  case content =>
    rw [hdev, writeCall, receive_writeBytes, drift_content, receiveWrite_content, writableAt_row hc, if_pos hr]
    rfl

/-- The reference device answers a read with the content, 0 where nothing was written (log 27). -/
theorem answerOf_reference_read (hc : s.cfg.Conforming) (hts : s.turns = .reference :: ts) (r : RegName) :
    answerOf s (readCall s.cfg r) = some (readReply (Memory.wordAt s.dev.content fun _ => 0#8)
      (s.cfg.row r).address (s.cfg.row r).wordCount) := by
  rw [← deviceReply_readBytes hc fun _ => Memory.wordAt s.dev.content fun _ => 0#8]
  simp [answerOf, hts, answerTurn, readCall, Config.periphAddr]

/-- On the reference device the read of a writable register gives the word that stands there. -/
theorem exec_read_reference {i : Instr} (hi : (i, r) ∈ readOps) (hc : s.cfg.Conforming)
    (hts : s.turns = .reference :: ts) (hr : r.writable = true) {w : Word}
    (hw : Memory.wordAt s.dev.content (fun _ => 0#8) (s.cfg.row r).address = w) :
    ∃ t, exec i s = .next t ∧ Presents (.ok (decodeValue (s.cfg.row r).kind [hi8 w, lo8 w])) t := by
  obtain ⟨t, hrun, hone⟩ := regRead_oneTransaction hc (replyLen_le_of_writable hc hr) (by simp [hts])
  refine ⟨t, (exec_read hi s).trans hrun, ?_⟩
  have hpresents := hone.presents
  rwa [answerOf_reference_read hc hts, show (readCall s.cfg r).n = replyLen (s.cfg.row r).wordCount from rfl,
    readResult_readReply, wordCount_of_writable hc hr, show (1#16 : Word).toNat = 1 from rfl, shownBytes_one,
    hw] at hpresents

end ReferenceTurn

/-- The three plain writes and the reads of their registers (R253 to R255, R258 to R260). -/
theorem exec_plainWrite_and_read {v : BitVec 32} {i j : Instr} {r : RegName}
    (h : (i, j, r) ∈ [(Instr.wrregOffset v, Instr.rdregOffset, RegName.offset),
      (.wrregCust1 v, .rdregCust1, .cust1), (.wrregCust2 v, .rdregCust2, .cust2)]) :
    (∀ s, exec i s = writeValue r v s) ∧ (j, r) ∈ readOps ∧ r.writable = true := by
  simp only [List.mem_cons, Prod.mk.injEq, List.not_mem_nil, or_false] at h
  rcases h with ⟨rfl, rfl, rfl⟩ | ⟨rfl, rfl, rfl⟩ | ⟨rfl, rfl, rfl⟩
  · exact ⟨fun _ => rfl, by decide, rfl⟩
  · exact ⟨fun _ => rfl, by decide, rfl⟩
  · exact ⟨fun _ => rfl, by decide, rfl⟩

/-- Settles O56: the write stores its word, and the read finds it. -/
theorem referenceDeviceReadsBackWhatWasWritten : Obligations.ReferenceDeviceReadsBackWhatWasWritten := by
  intro v i j r hij s w ts hc hw hts
  obtain ⟨hexec, hread, hwritable⟩ := exec_plainWrite_and_read hij
  obtain ⟨t, hwrite, hwritten, hcfg, hturns, hcontent⟩ := regWrite_reference hc hts hwritable w
  have hstored : Memory.wordAt t.dev.content (fun _ => 0#8) (t.cfg.row r).address = w := by
    rw [hcontent, hcfg]
    exact wordAt_writeWord ..
  obtain ⟨u, hrun, hshown⟩ := exec_read_reference hread (hcfg.symm ▸ hc) hturns hwritable hstored
  rw [hcfg] at hshown
  exact ⟨t, u, ((hexec s).trans (writeValue_of_encodes hw)).trans hwrite, hwritten, hrun, hshown⟩

end Sys2Proof.Machine
end

section
/-! PROOFS. The exceptions: no step faults, each operation fails only with the codes of its row of the matrix, and an
unanswered transaction waits (O8, O12, O44). -/

namespace Sys2Proof.Machine

open Sys2Proof.Safety

/-! ### Faults (log 30) -/

/-- The invariant leaves IDLE, where no instruction faults, TRANSACT with a transaction in flight, and DONE. -/
theorem coreMove_no_fault {s : State} (h : MachineInv s) (f : Fault) : coreMove s ≠ .fault f := by
  rcases h.visible with hp | hp | hp
  · cases hc : s.cmdPort with
    | nil => simp [coreMove, hp, hc]
    | cons e rest =>
      obtain ⟨hok, herr⟩ := coreMove_idle hp hc
      cases hd : decode e with
      | error x => rw [herr x hd]; nofun
      | ok i => rw [hok i hd]; exact exec_no_fault i _ f
  · obtain ⟨p, hq⟩ := Option.isSome_iff_exists.1 (h.inFlight.2 hp)
    rw [coreMove_transact hp hq]
    nofun
  · rw [coreMove_done hp]
    nofun

/-- Settles O8: only the core's move can fault, and the invariant does not speak of the schedule. -/
theorem stepNeverFaults : Obligations.StepNeverFaults := by
  intro s f h
  match hs : s.schedule with
  | [] => rw [step_empty hs]; exact coreMove_no_fault h f
  | .core :: ms => rw [step_core hs]; exact coreMove_no_fault (machineInv_setPort h ms s.cmdPort) f
  | .present e :: ms => rw [step_present hs]; nofun
  | .device b c :: ms => rw [step_device hs]; nofun
  | .otherUser frame c :: ms => rw [step_otherUser hs]; nofun
  | .reset x c :: ms => rw [step_reset hs]; nofun

/-! ### The wait (R336) -/

/-- Settles O12: the core's move in TRANSACT is `await`, which without a turn is the identity. -/
theorem unansweredTransactionWaits : Obligations.UnansweredTransactionWaits := by
  intro s p hp hq hts hs
  rw [step_empty hs, coreMove_transact hp hq, await_nil p hts]

/-! ### The failures of a transaction (R311 to R313) -/

/-- An operation that completes with a failure completes with an allowed one. -/
structure FailsWithin (allowed : Failure → Bool) (o : Host.Outcome State Fault Refusal) : Prop where
  allows : ∀ t f, o = .next t → t.res = some (.err f) → allowed f = true

/-- The failures of a transaction, by what its reply is checked for: the transport's, and that of the check. -/
def Expect.raises : Expect → Failure → Bool
  | .frame _, f => f == .notAcknowledged || f == .checksumError
  | .echo, f => f == .notAcknowledged || f == .registerWriteMismatch
  | .bulk, f => f == .notAcknowledged

theorem Expect.raises_notAcknowledged (x : Expect) : x.raises .notAcknowledged = true := by cases x <;> rfl

theorem parseRead_error {r : List Byte} {n : Nat} {f : Failure} (h : parseRead r n = .error f) :
    f = .checksumError := by
  unfold parseRead at h
  split at h <;> cases h
  rfl

theorem checkedResult_raises {x : Expect} {r : List Byte} {q : Request} {l : BulkLayout} {f : Failure}
    (h : checkedResult x r q l = .err f) : x.raises f = true := by
  cases x with
  | frame kind =>
    simp only [checkedResult] at h
    split at h <;> cases h
    case h_2 hparse => rw [parseRead_error hparse]; rfl
  | echo =>
    simp only [checkedResult] at h
    split at h <;> cases h
    rfl
  | bulk => cases h

theorem answeredResult_raises {p : Pending} {a : Option (List Byte)} {q : Request} {l : BulkLayout} {f : Failure}
    (h : answeredResult p a q l = .err f) : p.expect.raises f = true := by
  cases a with
  | none => cases h; exact p.expect.raises_notAcknowledged
  | some r =>
    simp only [answeredResult] at h
    split at h
    · exact checkedResult_raises h
    · cases h; exact p.expect.raises_notAcknowledged

/-! ### The failures of the shared operations -/

theorem FailsWithin.mono {a b : Failure → Bool} {o : Host.Outcome State Fault Refusal} (h : FailsWithin a o)
    (hab : ∀ f, a f = true → b f = true) : FailsWithin b o where
  allows t f ho hf := hab f (h.allows t f ho hf)

theorem failsWithin_refused (allowed : Failure → Bool) (x : Refusal) : FailsWithin allowed (.refused x) where
  allows _ _ ho := nomatch ho

theorem failsWithin_complete {allowed : Failure → Bool} {r : Res} (s : State)
    (h : ∀ f, r = .err f → allowed f = true) : FailsWithin allowed (.next (complete r s)) where
  allows t f ho hf := by
    cases ho
    exact h f (Option.some.inj hf)

/-- A transaction that waits has no result; an answered one has that of its reply. -/
theorem failsWithin_transact (p : Pending) {s : State} (h : s.res = none) :
    FailsWithin p.expect.raises (.next (transact p s)) where
  allows t f ho hf := by
    cases ho
    cases hs : s.turns with
    | nil => simp [transact_nil p hs, h] at hf
    | cons turn ts =>
      rw [transact_cons p hs, receive_res, Option.some.injEq] at hf
      exact answeredResult_raises hf

theorem failsWithin_of_call {s : State} {p : Pending} {o : Host.Outcome State Fault Refusal}
    (h : (∃ x, o = .refused x) ∨ MakesCall s p o) : FailsWithin p.expect.raises o := by
  rcases h with ⟨x, rfl⟩ | ⟨s', hr, -, -, -, rfl⟩
  · exact failsWithin_refused _ x
  · exact failsWithin_transact p hr.res

theorem regRead_failsWithin (r : RegName) (s : State) :
    FailsWithin (Expect.frame (s.cfg.row r).kind).raises (regRead r s) :=
  failsWithin_of_call (regRead_cases r s)

theorem regWrite_failsWithin (r : RegName) (w : Word) (s : State) :
    FailsWithin Expect.echo.raises (regWrite r w (enter .validate (accept s))) :=
  failsWithin_of_call (regWrite_cases r w s)

theorem writeValue_failsWithin (r : RegName) (v : BitVec 32) (s : State) :
    FailsWithin Expect.echo.raises (writeValue r v s) := by
  rcases writeValue_cases r v s with ⟨x, hx⟩ | ⟨w, hcall⟩
  · rw [hx]; exact failsWithin_refused ..
  · exact failsWithin_of_call (.inr hcall)

/-- A validated write has one failure more, its own (R314, R315). -/
theorem validatedWrite_failsWithin (r : RegName) (f : Failure) (b : Bool) (v : BitVec 32) (s : State) :
    FailsWithin (fun g => Expect.echo.raises g || g == f) (validatedWrite r f b v s) := by
  cases b with
  | false => exact failsWithin_complete _ fun g hg => by cases hg; simp
  | true => exact (regWrite_failsWithin r (narrow16 v) s).mono fun g hg => by simp [hg]

theorem buildOnly_failsWithin (allowed : Failure → Bool) (q : Request) (s : State) :
    FailsWithin allowed (.next (buildOnly q s)) :=
  failsWithin_complete _ nofun

/-! ### The matrix (R318) -/

theorem exec_bldrd_failsWithin (a b : Word) (s : State) : FailsWithin (mayFail (.bldrd a b)) (exec (.bldrd a b) s) := by
  by_cases hb : b = 0#16
  · subst hb; exact failsWithin_refused _ .wordCountZero
  · rw [exec_bldrd hb]; exact buildOnly_failsWithin ..

theorem exec_prsrd_failsWithin (f : List Byte) (n : Nat) (s : State) :
    FailsWithin (mayFail (.prsrd f n)) (exec (.prsrd f n) s) := by
  by_cases hf : f.length = n ∧ 6 ≤ n ∧ n % 2 = 0
  · rw [exec_prsrd hf]
    refine failsWithin_complete _ fun g hg => ?_
    unfold prsrdResult at hg
    split at hg <;> cases hg
    rfl
  · rw [exec_prsrd_refused hf]; exact failsWithin_refused ..

theorem exec_prswr_failsWithin (sent received : List Byte) (s : State) :
    FailsWithin (mayFail (.prswr sent received)) (exec (.prswr sent received) s) := by
  rw [exec_prswr]
  refine failsWithin_complete _ fun g hg => ?_
  split at hg <;> cases hg
  rfl

theorem exec_wrregMode_failsWithin (v : BitVec 32) (s : State) :
    FailsWithin (mayFail (.wrregMode v)) (exec (.wrregMode v) s) := by
  by_cases h0 : v = 0#32
  · rw [exec_wrregMode (m := .continuous) (by simp [h0])]
    exact regWrite_failsWithin ..
  by_cases h1 : v = 1#32
  · rw [exec_wrregMode (m := .singleShot) (by simp [h1])]
    exact regWrite_failsWithin ..
  · rw [exec_wrregMode_refused h0 h1]; exact failsWithin_refused ..

/-- The twenty reads have one row (R318). -/
theorem mayFail_read {i : Instr} {r : RegName} (h : (i, r) ∈ readOps) (f : Failure) :
    mayFail i f = (f == .notAcknowledged || f == .checksumError) := by
  have table : ∀ p ∈ readOps, mayFail p.1 f = (f == .notAcknowledged || f == .checksumError) := by cases f <;> decide
  exact table (i, r) h

theorem exec_read_failsWithin {i : Instr} (hi : (readOps.any fun p => p.1 == i) = true) (s : State) :
    FailsWithin (mayFail i) (exec i s) := by
  obtain ⟨⟨j, r⟩, hmem, hj⟩ := List.any_eq_true.1 hi
  obtain rfl : j = i := eq_of_beq hj
  rw [exec_read hmem]
  exact (regRead_failsWithin r s).mono fun f hf => (mayFail_read hmem f).trans hf

/-- A read frame is a read or is only built (log 15). -/
theorem exec_rqR_failsWithin (addr count crc : Word) (s : State) :
    FailsWithin (mayFail (.rqR addr count crc)) (exec (.rqR addr count crc) s) := by
  change FailsWithin _ (execRqR addr count crc s)
  by_cases h0 : count = 0#16
  · subst h0; exact failsWithin_refused _ .wordCountZero
  cases hr : readAt s.cfg addr count with
  | none => rw [execRqR_none crc h0 hr]; exact buildOnly_failsWithin ..
  | some r => rw [execRqR_some crc h0 hr]; exact regRead_failsWithin ..

/-- The row of a write frame has every code but `ChecksumError` (log 15). -/
theorem FailsWithin.writeFrame {allowed : Failure → Bool} {o : Host.Outcome State Fault Refusal}
    (h : FailsWithin allowed o) (hno : allowed .checksumError = false) (addr w crc : Word) :
    FailsWithin (mayFail (.rqW addr w crc)) o :=
  h.mono fun _ hf => bne_iff_ne.2 fun he => Bool.false_ne_true (hno.symm.trans (he ▸ hf))

/-- A write frame is a write, validated or not, or is only built (log 15). -/
theorem exec_rqW_failsWithin (addr w crc : Word) (s : State) :
    FailsWithin (mayFail (.rqW addr w crc)) (exec (.rqW addr w crc) s) := by
  change FailsWithin _ (execRqW addr w crc s)
  rcases execRqW_cases addr w crc s with ⟨-, h⟩ | ⟨-, h⟩ | ⟨r, -, -, -, h⟩ | ⟨-, h⟩ <;> rw [h]
  · exact (validatedWrite_failsWithin ..).writeFrame rfl ..
  · exact (validatedWrite_failsWithin ..).writeFrame rfl ..
  · exact (regWrite_failsWithin ..).writeFrame rfl ..
  · exact buildOnly_failsWithin ..

/-- The row of an operation in the matrix is the set of failures of the shared operation it is made of. -/
theorem exec_failsWithin_mayFail (i : Instr) (s : State) : FailsWithin (mayFail i) (exec i s) := by
  cases i with
  | crc16 p => rw [exec_crc16]; exact failsWithin_complete _ nofun
  | fdec b0 b1 b2 b3 => rw [exec_fdec]; exact failsWithin_complete _ nofun
  | bldrd a b => exact exec_bldrd_failsWithin a b s
  | prsrd f n => exact exec_prsrd_failsWithin f n s
  | bldwr a vh vl => rw [exec_bldwr]; exact buildOnly_failsWithin ..
  | prswr sent received => exact exec_prswr_failsWithin sent received s
  | lookup r => rw [exec_lookup]; exact failsWithin_complete _ nofun
  | wrregInterval v => exact validatedWrite_failsWithin .interval .invalidIntervalInput _ v s
  | wrregFilter v => exact validatedWrite_failsWithin .filter .invalidFilterInput _ v s
  | wrregOffset v => exact writeValue_failsWithin .offset v s
  | wrregCust1 v => exact writeValue_failsWithin .cust1 v s
  | wrregCust2 v => exact writeValue_failsWithin .cust2 v s
  | wrregMode v => exact exec_wrregMode_failsWithin v s
  | wrregTrigger => exact regWrite_failsWithin .trigger s.cfg.trigVal s
  | getall => exact failsWithin_transact (bulkPending s.cfg) rfl
  | rqR addr count crc => exact exec_rqR_failsWithin addr count crc s
  | rqW addr w crc => exact exec_rqW_failsWithin addr w crc s
  | _ => exact exec_read_failsWithin rfl s

/-- Settles O44: the matrix bounds the failures of every operation. -/
theorem failuresAreThoseOfTheMatrix : Obligations.FailuresAreThoseOfTheMatrix :=
  fun i s => (exec_failsWithin_mayFail i s).allows

end Sys2Proof.Machine
end

section
/-! PROOFS. The reset input and the request it abandons (O13). -/

namespace Sys2Proof.Machine

/-! ### The abandoned request (R351, R352) -/

theorem abandoned_of_no_request {s : State} (x : Bool) (c : Drift) (h : s.pending = none) :
    abandoned x c s = s.dev := by
  simp [abandoned, h]

/-- The abandoned call has no answer, hence no echo: only the flag says whether the request reached `0x5F` (R292). -/
theorem abandoned_of_request {s : State} {p : Pending} (x : Bool) (c : Drift) (h : s.pending = some p) :
    abandoned x c s =
      if x = true ∧ p.call.addr = 0x5F#8 then s.dev.receive s.cfg p.call.wbytes c else s.dev.drift c := by
  simp [abandoned, h, answerTurn, Config.periphAddr]

/-- Settles O13: the step is `resetCore`, whose device is the abandoned one. -/
theorem resetInputAbandonsTheCommand : Obligations.ResetInputAbandonsTheCommand := by
  intro s x c ms hs
  exact ⟨resetCore x c { s with schedule := ms }, step_reset hs, rfl, rfl, rfl, rfl, rfl, rfl, rfl, rfl,
    fun h => abandoned_of_no_request (s := { s with schedule := ms }) x c h,
    fun p h => abandoned_of_request (s := { s with schedule := ms }) x c h⟩

end Sys2Proof.Machine
end
